-- ==== Sys2Proof/Word.lean ====
section
/-! DEFINITION. The widths KRAE uses: bus words, bytes, coefficient cells, slot numbers and ring elements
(00_scope.md R10, R11; 10_state.md R20, R28). -/

namespace Sys2Proof

/-- A register or bus word, `XLEN = 32` bits (10_state.md R28). -/
abbrev Word := BitVec 32

/-- One byte of a word as a bus presents it (20_memory.md R63). -/
abbrev Byte := BitVec 8

/-- One stored coefficient, a `CW = 12`-bit unsigned cell (10_state.md R20). -/
abbrev Coeff := BitVec 12

/-- A slot number, 0 to 31 (30_encoding.md R92). -/
abbrev Slot := Fin 32

/-- A polynomial: 256 coefficients, index 0 first (10_state.md R20). -/
abbrev RingElem := Vector Coeff 256

end Sys2Proof
end

