-- ==== Sys2Proof/Config.lean ====
section
/-! DEFINITION. What the spec fixes for every build, what a build chooses, and the free values
(00_scope.md R8 to R10; 93_implementation_defined.md U1, U8). -/

namespace Sys2Proof

/-- The modulus `Q = 3329` (00_scope.md R8). -/
abbrev Q : Nat := 3329

/-- The module rank K of a build: 2, 3 or 4 (00_scope.md R9). -/
inductive Rank where
  | two
  | three
  | four
  deriving DecidableEq, Repr

/-- K as a number. -/
def Rank.toNat : Rank → Nat
  | .two => 2
  | .three => 3
  | .four => 4

/-- The build parameters a model takes as arguments (92_eei_decisions.md, OPEN parameters). Logs 1 and 2. -/
structure Build where
  /-- K, the module rank (00_scope.md R9). -/
  rank : Rank
  /-- `BASE / 4096`, so that BASE is a multiple of 4096 (20_memory.md R62). -/
  basePage : Nat
  deriving DecidableEq, Repr

/-- The platform address of offset 0 of the window (20_memory.md R62). -/
def Build.base (b : Build) : Nat := 4096 * b.basePage

/-- Free value: bits of coefficient `j` of slot `e` after the `n`-th reset event, before its zeroization.
10_state.md R42 calls the contents unspecified (93_implementation_defined.md U8). Log 4. -/
opaque Config.unspecifiedCoeff (n e j : Nat) : BitVec 12

/-- Free value: the tag bit of slot `e` after the `n`-th reset event, before its zeroization (10_state.md R42). Log 4. -/
opaque Config.unspecifiedTag (n e : Nat) : BitVec 1

end Sys2Proof
end

