-- ==== Sys2Proof/Syntax.lean ====
section
/-! DEFINITION. The commands: one constructor per row of the opcode map (30_encoding.md R95). -/

namespace Sys2Proof

/-- A domain tag (10_state.md R21): 0 is NORMAL, 1 is NTT. -/
inductive Domain where
  | normal
  | ntt
  deriving DecidableEq, Repr

/-- A KRAE command with its operands: `d` is RD, `a` is RA, `b` is RB, `t` the tag immediate
(30_encoding.md R91, R92, R94, R95). In a vector command a slot names the vector's base. -/
inductive Instr where
  /-- NOP, 45_housekeeping.md R200. -/
  | nop
  /-- PADD pD, pA, pB, 43_poly_addsub.md R170. -/
  | padd (d a b : Slot)
  /-- PSUB pD, pA, pB, 43_poly_addsub.md R171. -/
  | psub (d a b : Slot)
  /-- PNTT pD, pA, 41_ntt.md R150. -/
  | pntt (d a : Slot)
  /-- PINTT pD, pA, 41_ntt.md R151. -/
  | pintt (d a : Slot)
  /-- PMUL pD, pA, pB, 42_pointwise.md R163. -/
  | pmul (d a b : Slot)
  /-- PMAC pD, pA, pB, 42_pointwise.md R164. -/
  | pmac (d a b : Slot)
  /-- PCOPY pD, pA, 45_housekeeping.md R201. -/
  | pcopy (d a : Slot)
  /-- PZERO pD, #t, 45_housekeeping.md R202. -/
  | pzero (d : Slot) (t : Domain)
  /-- SETTAG pD, #t, 45_housekeeping.md R203. -/
  | settag (d : Slot) (t : Domain)
  /-- CLRALL, 45_housekeeping.md R204. -/
  | clrall
  /-- VADD pD, pA, pB, 44_vector.md R181. -/
  | vadd (d a b : Slot)
  /-- VSUB pD, pA, pB, 44_vector.md R182. -/
  | vsub (d a b : Slot)
  /-- VNTT pD, pA, 44_vector.md R183. -/
  | vntt (d a : Slot)
  /-- VINTT pD, pA, 44_vector.md R184. -/
  | vintt (d a : Slot)
  /-- VPMUL pD, pA, pB, 44_vector.md R185. -/
  | vpmul (d a b : Slot)
  /-- VDOT pD, pA, pB, 44_vector.md R186: `d` is a single slot, `a` and `b` are bases. -/
  | vdot (d a b : Slot)
  deriving DecidableEq, Repr

end Sys2Proof
end

