-- ==== Sys2Proof/WellFormed.lean ====
section
/-! DEFINITION. When a command is well-formed for a build: every vector it names lies inside the slot file
(10_state.md R24; 44_vector.md R180). Slot numbers and tags are in range by their types. -/

namespace Sys2Proof

/-- The fields a command uses as vector bases (44_vector.md R180, item 1). RD of VDOT is a single slot. -/
def Instr.vectorBases : Instr → List Slot
  | .nop | .clrall => []
  | .padd _ _ _ | .psub _ _ _ | .pmul _ _ _ | .pmac _ _ _ => []
  | .pntt _ _ | .pintt _ _ | .pcopy _ _ => []
  | .pzero _ _ | .settag _ _ => []
  | .vadd d a b => [d, a, b]
  | .vsub d a b => [d, a, b]
  | .vntt d a => [d, a]
  | .vintt d a => [d, a]
  | .vpmul d a b => [d, a, b]
  | .vdot _ a b => [a, b]

/-- "A vector operand with base b is legal only when `b + K - 1 <= 31`" (10_state.md R24), for every base. -/
def Instr.wellFormed (k : Rank) (i : Instr) : Bool :=
  i.vectorBases.all fun b => b.val + k.toNat - 1 ≤ 31

end Sys2Proof
end

