-- ==== Sys2Proof/Decode.lean ====
section
/-! DEFINITION. The command encoding (30_encoding.md R90 to R99): fields, formats, the opcode map, the decoder of R98,
and the encoder written from the same tables. -/

namespace Sys2Proof

/-- The four formats (30_encoding.md R93). -/
inductive Format where
  | f0
  | f1t
  | f2
  | f3
  deriving DecidableEq, Repr

/-- The must-be-zero bits of a format, the column ZMASK (30_encoding.md R93). -/
def Format.zmask : Format → Word
  | .f0 => 0xFFFFFF00
  | .f1t => 0xFFFEE000
  | .f2 => 0xFFE0E000
  | .f3 => 0xE0E0E000

/-- The operand fields of a command word, whether its format uses them or not. -/
structure Fields where
  rd : Slot
  ra : Slot
  rb : Slot
  t : Domain
  deriving DecidableEq, Repr

/-- A slot field is a plain unsigned 5-bit number (30_encoding.md R92). -/
def slotOfBits (b : BitVec 5) : Slot := ⟨b.toNat, b.isLt⟩

/-- The 5 bits of a slot number. -/
def bitsOfSlot (s : Slot) : BitVec 5 := BitVec.ofNat 5 s.val

/-- A tag bit: 0 is NORMAL and 1 is NTT (10_state.md R21; 30_encoding.md R94). -/
def domainOfBit (b : BitVec 1) : Domain := if b = 0 then .normal else .ntt

/-- A domain as its tag bit's value. -/
def Domain.toNat : Domain → Nat
  | .normal => 0
  | .ntt => 1

/-- OPC, w[7:0] (30_encoding.md R91). -/
def opcodeOf (w : Word) : Nat := (w.extractLsb' 0 8).toNat

/-- RD = w[12:8], RA = w[20:16], RB = w[28:24], t = w[16] (30_encoding.md R91, R98). -/
def fieldsOf (w : Word) : Fields where
  rd := slotOfBits (w.extractLsb' 8 5)
  ra := slotOfBits (w.extractLsb' 16 5)
  rb := slotOfBits (w.extractLsb' 24 5)
  t := domainOfBit (w.extractLsb' 16 1)

/-- The opcode map (30_encoding.md R95): the format of each opcode and the command it names. `none` is an illegal
opcode (R96). -/
def opcodeRow : Nat → Option (Format × (Fields → Instr))
  | 0x00 => some (.f0, fun _ => .nop)
  | 0x01 => some (.f3, fun f => .padd f.rd f.ra f.rb)
  | 0x02 => some (.f3, fun f => .psub f.rd f.ra f.rb)
  | 0x03 => some (.f2, fun f => .pntt f.rd f.ra)
  | 0x04 => some (.f2, fun f => .pintt f.rd f.ra)
  | 0x05 => some (.f3, fun f => .pmul f.rd f.ra f.rb)
  | 0x06 => some (.f3, fun f => .pmac f.rd f.ra f.rb)
  | 0x08 => some (.f2, fun f => .pcopy f.rd f.ra)
  | 0x09 => some (.f1t, fun f => .pzero f.rd f.t)
  | 0x0A => some (.f1t, fun f => .settag f.rd f.t)
  | 0x0B => some (.f0, fun _ => .clrall)
  | 0x11 => some (.f3, fun f => .vadd f.rd f.ra f.rb)
  | 0x12 => some (.f3, fun f => .vsub f.rd f.ra f.rb)
  | 0x13 => some (.f2, fun f => .vntt f.rd f.ra)
  | 0x14 => some (.f2, fun f => .vintt f.rd f.ra)
  | 0x15 => some (.f3, fun f => .vpmul f.rd f.ra f.rb)
  | 0x16 => some (.f3, fun f => .vdot f.rd f.ra f.rb)
  | _ => none

/-- What the decoder answers (30_encoding.md R98): a command, or a rejection by name. -/
inductive Decoded where
  /-- A legal command word. -/
  | command (i : Instr)
  /-- An illegal opcode (R96). -/
  | illegal
  /-- A legal opcode with a must-be-zero bit set (R97). -/
  | reserved
  deriving DecidableEq, Repr

/-- `Decode(w)`, total on every 32-bit word (30_encoding.md R98). -/
def decode (w : Word) : Decoded :=
  match opcodeRow (opcodeOf w) with
  | none => .illegal
  | some (f, command) => if w &&& f.zmask ≠ 0 then .reserved else .command (command (fieldsOf w))

/-- Byte `n` of a word, bits [8n+7:8n] (20_memory.md R63). -/
def byteOf (w : Word) (n : Nat) : Byte := w.extractLsb' (8 * n) 8

/-- The word a bus presents as the four bytes `b0` (lowest address) to `b3`: little-endian (20_memory.md R63). -/
def wordOfBytes (b0 b1 b2 b3 : Byte) : Word := b3 ++ b2 ++ b1 ++ b0

/-- Decoding a run of bytes: the decoded first word and the bytes after it; `none` if four bytes are not there.
Every command is exactly one word (30_encoding.md R90). -/
def decodeBytes : List Byte → Option (Decoded × List Byte)
  | b0 :: b1 :: b2 :: b3 :: rest => some (decode (wordOfBytes b0 b1 b2 b3), rest)
  | _ => none

/-- `w = RB·2^24 + RA·2^16 + RD·2^8 + OPC` (30_encoding.md R91). -/
def packWord (rb ra rd opc : Nat) : Word := BitVec.ofNat 32 (rb * 2 ^ 24 + ra * 2 ^ 16 + rd * 2 ^ 8 + opc)

/-- The command word of a command, from the "Encoding" line of its rule. -/
def encode : Instr → Word
  | .nop => packWord 0 0 0 0x00
  | .padd d a b => packWord b a d 0x01
  | .psub d a b => packWord b a d 0x02
  | .pntt d a => packWord 0 a d 0x03
  | .pintt d a => packWord 0 a d 0x04
  | .pmul d a b => packWord b a d 0x05
  | .pmac d a b => packWord b a d 0x06
  | .pcopy d a => packWord 0 a d 0x08
  | .pzero d t => packWord 0 t.toNat d 0x09
  | .settag d t => packWord 0 t.toNat d 0x0A
  | .clrall => packWord 0 0 0 0x0B
  | .vadd d a b => packWord b a d 0x11
  | .vsub d a b => packWord b a d 0x12
  | .vntt d a => packWord 0 a d 0x13
  | .vintt d a => packWord 0 a d 0x14
  | .vpmul d a b => packWord b a d 0x15
  | .vdot d a b => packWord b a d 0x16

/-- The command the decoder reads from an opcode-table word of `nbits` bits; every bit above `nbits` is 0.
A command word has 32 bits and no more (30_encoding.md R90). -/
def decodeTableWord (nbits w : Nat) : Option Instr :=
  if nbits ≤ 32 then
    match decode (BitVec.ofNat 32 (w % 2 ^ nbits)) with
    | .command i => some i
    | .illegal => none
    | .reserved => none
  else none

end Sys2Proof
end

