-- ==== Sys2Proof/Machine/State.lean ====
section
/-! DEFINITION. Everything the spec gives KRAE to hold (10_state.md), the inputs still to arrive, and the state
just after reset. -/

namespace Sys2Proof.Machine

/-- The error codes of STATUS.ERRCODE (60_exceptions.md R221). Codes 0x8 to 0xF are never produced. -/
inductive ErrCode where
  | none
  | illegalOpcode
  | reservedNonzero
  | slotRange
  | domain
  | cmdBusy
  | winRange
  | winBusy
  deriving DecidableEq, Repr

/-- PEND, the pending command (10_state.md R38). -/
structure Pend where
  valid : Bool
  word : Word
  deriving DecidableEq, Repr

/-- One completed host access at the bus port (20_memory.md R64, R77): a platform byte address, a width in bytes,
and for a write its data word. -/
inductive Access where
  | read (addr size : Nat)
  | write (addr size : Nat) (data : Word)
  deriving DecidableEq, Repr

/-- One event of the total order of steps (20_memory.md R71): a host access, a turn of the engine, or the level the RST
input takes. Log 3. -/
inductive Event where
  | access (a : Access)
  | engine
  | rst (asserted : Bool)
  deriving DecidableEq, Repr

/-- The state of KRAE (10_state.md), with the model's own fields last. -/
structure State where
  /-- K and BASE (00_scope.md R9; 20_memory.md R62). No step changes them. Logs 1 and 2. -/
  build : Build
  /-- S, the slot file (10_state.md R20). -/
  slots : Vector RingElem 32
  /-- T, the tag file (10_state.md R21). -/
  tags : Vector Domain 32
  /-- CTRL.IRQ_EN (10_state.md R31). -/
  irqEn : Bool
  /-- STATUS.DONE (10_state.md R32). -/
  done : Bool
  /-- STATUS.ERR (10_state.md R32). -/
  err : Bool
  /-- STATUS.ERRCODE (10_state.md R32; 60_exceptions.md R221). -/
  errCode : ErrCode
  /-- ERRINFO (10_state.md R36). -/
  errInfo : Word
  /-- LASTCMD, what CMD reads (10_state.md R33). -/
  lastCmd : Word
  /-- WINSEL.SLOT (10_state.md R34). -/
  winsel : Slot
  /-- PEND (10_state.md R38). -/
  pend : Pend
  /-- CLR, the pending zeroization (10_state.md R38). -/
  clr : Bool
  /-- The level of the RST input (20_memory.md R77). -/
  rst : Bool
  /-- The model's own: the read-data word of the last read the port answered (20_memory.md R77). Log 8. -/
  rdata : Word
  /-- The model's own: how many reset events there were, the counter of the free values of R42. Log 4. -/
  resets : Nat
  /-- The model's own: the events still to come, the next one first. Log 3. -/
  events : List Event
  deriving DecidableEq, Repr

/-- Why the machine stops with a fault. -/
inductive Fault where
  /-- Raised by `engineStep` when PEND holds a word that decodes to no command. SAFE: no run reaches it, since only a
  decoded command is accepted (60_exceptions.md R224); the spec gives such a word no effect. Log 7. -/
  | pendingWordNotACommand
  deriving DecidableEq, Repr

/-- Why an instruction has no meaning. -/
inductive Refusal where
  /-- Raised only by `exec`'s arm of an instruction that is not modelled yet. SAFE. No arm raises it now. -/
  | notModelled (mnemonic : String)
  deriving DecidableEq, Repr

/-- The machine just after a hard reset, before the zeroization step (10_state.md R42). S and T are unspecified there;
their zeros are a DESIGN CHOICE (log 4), as is BASE's page 0 (log 2); K is the spec's default 3 (R9, log 1). -/
def State.reset : State where
  build := { rank := .three, basePage := 0 }
  slots := Vector.replicate 32 (Vector.replicate 256 0)
  tags := Vector.replicate 32 .normal
  irqEn := false
  done := false
  err := false
  errCode := .none
  errInfo := 0
  lastCmd := 0
  winsel := 0
  pend := { valid := false, word := 0 }
  clr := true
  rst := false
  rdata := 0
  resets := 0
  events := []

end Sys2Proof.Machine
end

