-- ==== Sys2Proof/Machine/Operands.lean ====
section
/-! DEFINITION. Operands: reading and writing a slot and its tag, the vector view, and building ring elements
(00_scope.md R12; 10_state.md R20, R21, R24). -/

namespace Sys2Proof.Machine

/-- `S[e]`, the polynomial in slot `e` (00_scope.md R12). -/
def State.slot (s : State) (e : Slot) : RingElem := s.slots[e]

/-- `T[e]`, the domain tag of slot `e` (00_scope.md R12). -/
def State.tag (s : State) (e : Slot) : Domain := s.tags[e]

/-- `S[e] <- p`. -/
def State.setSlot (s : State) (e : Slot) (p : RingElem) : State := { s with slots := s.slots.set e p }

/-- `T[e] <- t`. -/
def State.setTag (s : State) (e : Slot) (t : Domain) : State := { s with tags := s.tags.set e t }

/-- `S[e] <- p` and `T[e] <- t`, the write of a command's result. -/
def State.writeSlot (s : State) (e : Slot) (p : RingElem) (t : Domain) : State := (s.setSlot e p).setTag e t

/-- K of this build (00_scope.md R9). -/
def State.k (s : State) : Nat := s.build.rank.toNat

/-- Element `i` of the vector with base `b`, slot `b + i` (10_state.md R24). Past slot 31 it wraps, which only a vector
that the range check refuses does (log 12). -/
def vecElem (b : Slot) (i : Nat) : Slot := Fin.ofNat 32 (b.val + i)

/-- Writes element `i` of the vector with base `d` for `i = 0 .. n-1`. The values are given, so they were read from the
snapshot (44_vector.md R180, item 3). -/
def State.writeVector (s : State) (d : Slot) (n : Nat) (value : Nat → RingElem) (tag : Nat → Domain) : State :=
  (List.range n).foldl (fun t i => t.writeSlot (vecElem d i) (value i) (tag i)) s

/-- The ring element with the listed coefficients, a shorter list padded with zeros (30_encoding.md R108, LOADP). -/
def ringElemOfList (l : List Coeff) : RingElem :=
  ⟨((l ++ List.replicate 256 0).take 256).toArray, by
    rw [List.size_toArray, List.length_take, List.length_append, List.length_replicate]; omega⟩

/-- The zero polynomial. -/
def ringZero : RingElem := Vector.replicate 256 0

/-- Coefficient by coefficient application of a two-operand primitive. -/
def ringZipWith (f : Coeff → Coeff → Coeff) (p q : RingElem) : RingElem :=
  ringElemOfList (List.zipWith f p.toList q.toList)

end Sys2Proof.Machine
end

