-- ==== Sys2Proof/Machine/Checks.lean ====
section
/-! DEFINITION. The checks that need state, made after decoding: RangeOK and DomainOK (60_exceptions.md R226;
44_vector.md R180). -/

namespace Sys2Proof.Machine

/-- `b + K - 1 <= 31`, written `b + K <= 32` (44_vector.md R180, item 1). -/
def baseOk (k : Nat) (b : Slot) : Bool := b.val + k ≤ 32

/-- RangeOK(c): every field the command uses as a vector base is in range (44_vector.md R180; the `require` line of
R181 to R186). -/
def rangeOk (k : Nat) : Instr → Bool
  | .nop | .clrall => true
  | .padd _ _ _ | .psub _ _ _ | .pmul _ _ _ | .pmac _ _ _ => true
  | .pntt _ _ | .pintt _ _ | .pcopy _ _ => true
  | .pzero _ _ | .settag _ _ => true
  | .vadd d a b => baseOk k d && baseOk k a && baseOk k b
  | .vsub d a b => baseOk k d && baseOk k a && baseOk k b
  | .vntt d a => baseOk k d && baseOk k a
  | .vintt d a => baseOk k d && baseOk k a
  | .vpmul d a b => baseOk k d && baseOk k a && baseOk k b
  | .vdot _ a b => baseOk k a && baseOk k b

/-- Every element of the vector with base `b` has tag `t`. -/
def State.allTagged (s : State) (b : Slot) (t : Domain) : Bool :=
  (List.range s.k).all fun i => s.tag (vecElem b i) = t

/-- The two vectors have the same tag in every element. -/
def State.sameTags (s : State) (a b : Slot) : Bool :=
  (List.range s.k).all fun i => s.tag (vecElem a i) = s.tag (vecElem b i)

/-- DomainOK(c), the table of 60_exceptions.md R226. -/
def domainOk (s : State) : Instr → Bool
  | .nop => true
  | .padd _ a b => s.tag a = s.tag b
  | .psub _ a b => s.tag a = s.tag b
  | .pntt _ a => s.tag a = .normal
  | .pintt _ a => s.tag a = .ntt
  | .pmul _ a b => s.tag a = .ntt && s.tag b = .ntt
  | .pmac d a b => s.tag a = .ntt && s.tag b = .ntt && s.tag d = .ntt
  | .pcopy _ _ => true
  | .pzero _ _ => true
  | .settag _ _ => true
  | .clrall => true
  | .vadd _ a b => s.sameTags a b
  | .vsub _ a b => s.sameTags a b
  | .vntt _ a => s.allTagged a .normal
  | .vintt _ a => s.allTagged a .ntt
  | .vpmul _ a b => s.allTagged a .ntt && s.allTagged b .ntt
  | .vdot _ a b => s.allTagged a .ntt && s.allTagged b .ntt

end Sys2Proof.Machine
end

