-- ==== Sys2Proof/Machine/Flags.lean ====
section
/-! DEFINITION. The status bits and words computed from the state: BUSY, IRQ, STATUS, CTRL, ID and TAGS. KRAE has no
arithmetic flags (10_state.md R23). -/

namespace Sys2Proof.Machine

/-- `STATUS.BUSY = PEND.valid or CLR` (10_state.md R38). -/
def State.busy (s : State) : Bool := s.pend.valid || s.clr

/-- `IRQ = CTRL.IRQ_EN and (STATUS.DONE or STATUS.ERR)`, the level of the output (10_state.md R39, 60_exceptions.md R230). -/
def State.irq (s : State) : Bool := s.irqEn && (s.done || s.err)

/-- The 4-bit code of an error (60_exceptions.md R221). -/
def ErrCode.toNat : ErrCode → Nat
  | .none => 0x0
  | .illegalOpcode => 0x1
  | .reservedNonzero => 0x2
  | .slotRange => 0x3
  | .domain => 0x4
  | .cmdBusy => 0x5
  | .winRange => 0x6
  | .winBusy => 0x7

/-- The STATUS word: BUSY [0], DONE [1], ERR [2], ERRCODE [7:4], the rest 0 (10_state.md R32). -/
def State.statusWord (s : State) : Word :=
  BitVec.ofNat 32 (s.busy.toNat + 2 * s.done.toNat + 4 * s.err.toNat + 16 * s.errCode.toNat)

/-- The CTRL word: IRQ_EN [0]; SRST always reads 0 (10_state.md R31). -/
def State.ctrlWord (s : State) : Word := BitVec.ofNat 32 s.irqEn.toNat

/-- The ID word: QVAL [15:0], LOGN [19:16], KVAL [23:20], LOGSLOT [27:24], VER [31:28] (10_state.md R30). -/
def idWord (b : Build) : Word :=
  BitVec.ofNat 32 (0x0D01 + 8 * 2 ^ 16 + b.rank.toNat * 2 ^ 20 + 5 * 2 ^ 24 + 1 * 2 ^ 28)

/-- The TAGS word: bit e is T[e] (10_state.md R35). -/
def State.tagsWord (s : State) : Word :=
  BitVec.ofNat 32 ((List.finRange 32).foldr (fun e acc => (s.tags[e]).toNat + 2 * acc) 0)

end Sys2Proof.Machine
end

