-- ==== Sys2Proof/Machine/Ops.lean ====
section
/-! DEFINITION. The shared operations: recording an error (KRAE's exception entry), clearing it (the return), the
command errors and window errors over them, and the frame every command rule has (60_exceptions.md R220 to R231). -/

namespace Sys2Proof.Machine

/-- `Record(code, info)`: the first error wins (60_exceptions.md R223). -/
def State.record (s : State) (code : ErrCode) (info : Word) : State :=
  if s.err then s else { s with err := true, errCode := code, errInfo := info }

/-- The return: a write of 1 to STATUS bit 2 clears ERR, ERRCODE and ERRINFO together (60_exceptions.md R231). -/
def State.clearError (s : State) : State := { s with err := false, errCode := .none, errInfo := 0 }

/-- `raise CmdError(code, w)`: the record, and nothing else (60_exceptions.md R224); ERRINFO is the command word
(R222). -/
def State.cmdError (s : State) (code : ErrCode) (w : Word) : State := s.record code w

/-- `raise WinError(WIN_BUSY, zext_32(off))` (60_exceptions.md R222, R225). -/
def State.winBusyError (s : State) (off : Nat) : State := s.record .winBusy (BitVec.ofNat 32 off)

/-- `raise WinError(WIN_RANGE, {11'b0, WINSEL.SLOT, 4'b0, off})` (60_exceptions.md R222, R225). -/
def State.winRangeError (s : State) (off : Nat) : State :=
  s.record .winRange (BitVec.ofNat 32 (s.winsel.val * 2 ^ 16 + off))

/-- A command rule: `require` its range and its domains, else raise the error with the command's own word, then do its
effect (the pseudocode of 41_ntt.md to 45_housekeeping.md). SLOT_RANGE comes before DOMAIN (60_exceptions.md R226).
The same checks guard acceptance (R224), so a pending command passes them here (log 11). -/
def runChecked (i : Instr) (s : State) (effect : State → State) : Host.Outcome State Fault Refusal :=
  if rangeOk s.k i = false then .next (s.cmdError .slotRange (encode i))
  else if domainOk s i = false then .next (s.cmdError .domain (encode i))
  else .next (effect s)

end Sys2Proof.Machine
end

