-- ==== Sys2Proof/Machine/Housekeeping.lean ====
section
/-! DEFINITION. NOP, PCOPY, PZERO, SETTAG and CLRALL (45_housekeeping.md R200 to R204). None of them has a range or a
domain to check (60_exceptions.md R226). -/

namespace Sys2Proof.Machine

/-- Every slot 0 and every tag NORMAL: the effect of CLRALL and of the reset zeroization (45_housekeeping.md R204;
10_state.md R40). -/
def State.zeroSlotFile (s : State) : State :=
  { s with slots := Vector.replicate 32 ringZero, tags := Vector.replicate 32 .normal }

/-- NOP (45_housekeeping.md R200). -/
def execNop (s : State) : Host.Outcome State Fault Refusal := runChecked .nop s fun s => s

/-- PCOPY pD, pA (45_housekeeping.md R201). -/
def execPcopy (d a : Slot) (s : State) : Host.Outcome State Fault Refusal :=
  runChecked (.pcopy d a) s fun s => s.writeSlot d (s.slot a) (s.tag a)

/-- PZERO pD, #t (45_housekeeping.md R202). -/
def execPzero (d : Slot) (t : Domain) (s : State) : Host.Outcome State Fault Refusal :=
  runChecked (.pzero d t) s fun s => s.writeSlot d ringZero t

/-- SETTAG pD, #t (45_housekeeping.md R203). -/
def execSettag (d : Slot) (t : Domain) (s : State) : Host.Outcome State Fault Refusal :=
  runChecked (.settag d t) s fun s => s.setTag d t

/-- CLRALL (45_housekeeping.md R204). -/
def execClrall (s : State) : Host.Outcome State Fault Refusal := runChecked .clrall s fun s => s.zeroSlotFile

end Sys2Proof.Machine
end

