-- ==== Sys2Proof/Machine/Reset.lean ====
section
/-! DEFINITION. Reset and zeroization (10_state.md R40, R42; 70_reset_and_hazards.md R260, R261). -/

namespace Sys2Proof.Machine

/-- S after the `n`-th reset event: unspecified (10_state.md R42), but canonical as R41 says of every point. Log 4. -/
@[irreducible] def unspecifiedSlots (n : Nat) : Vector RingElem 32 :=
  Vector.ofFn fun e => Vector.ofFn fun j => BitVec.ofNat 12 ((Config.unspecifiedCoeff n e j).toNat % Q)

/-- T after the `n`-th reset event: unspecified (10_state.md R42). Log 4. -/
@[irreducible] def unspecifiedTags (n : Nat) : Vector Domain 32 :=
  Vector.ofFn fun e => domainOfBit (Config.unspecifiedTag n e)

/-- A reset event, hard or soft: PEND is cleared, CLR is set, every register takes its reset value
(10_state.md R42; 70_reset_and_hazards.md R260, R261). -/
def State.resetEvent (s : State) : State where
  build := s.build
  slots := unspecifiedSlots s.resets
  tags := unspecifiedTags s.resets
  irqEn := false
  done := false
  err := false
  errCode := .none
  errInfo := 0
  lastCmd := 0
  winsel := 0
  pend := { valid := false, word := 0 }
  clr := true
  rst := s.rst
  rdata := s.rdata
  resets := s.resets + 1
  events := s.events

/-- The engine's zeroization step; DONE is not set (10_state.md R40). -/
def State.zeroize (s : State) : State := { s.zeroSlotFile with clr := false }

/-- The RST input takes a level. Its assertion is a hard reset (20_memory.md R77), and on release the state is the one
of 10_state.md R42 (70_reset_and_hazards.md R260). An unchanged level does nothing. Log 6. -/
def State.rstInput (s : State) (asserted : Bool) : State :=
  if asserted = s.rst then s else { s.resetEvent with rst := asserted }

end Sys2Proof.Machine
end

