-- ==== Sys2Proof/Machine/Bus.lean ====
section
/-! DEFINITION. The register window: the map, what each register reads, what each write does, and one host access
(10_state.md R25 to R37; 20_memory.md R60 to R68; 60_exceptions.md R224, R225). -/

namespace Sys2Proof.Machine

/-- The registers of the window (10_state.md R26). -/
inductive Reg where
  | id
  | ctrl
  | status
  | cmd
  | winsel
  | tags
  | errInfo
  | win (j : Fin 256)
  | reserved
  deriving DecidableEq, Repr

/-- The register at byte offset `off`, a multiple of 4 (10_state.md R26, R27). -/
def regAt (off : Nat) : Reg :=
  if off = 0x000 then .id
  else if off = 0x004 then .ctrl
  else if off = 0x008 then .status
  else if off = 0x00C then .cmd
  else if off = 0x010 then .winsel
  else if off = 0x014 then .tags
  else if off = 0x018 then .errInfo
  else if 0x400 ≤ off ∧ off < 0x800 then .win (Fin.ofNat 256 ((off - 0x400) / 4))
  else .reserved

/-- The byte offset of WIN[j] (10_state.md R37). -/
def winOffset (j : Fin 256) : Nat := 0x400 + 4 * j.val

/-- What a host read of a register returns. No read changes any state (20_memory.md R68); WIN and TAGS read 0 while
BUSY (R67, 10_state.md R35). -/
def State.readReg (s : State) : Reg → Word
  | .id => idWord s.build
  | .ctrl => s.ctrlWord
  | .status => s.statusWord
  | .cmd => s.lastCmd
  | .winsel => BitVec.ofNat 32 s.winsel.val
  | .tags => if s.busy then 0 else s.tagsWord
  | .errInfo => s.errInfo
  | .win j => if s.busy then 0 else ((s.slot s.winsel)[j]).zeroExtend 32
  | .reserved => 0

/-- A command is accepted (60_exceptions.md R224). -/
def State.accept (s : State) (w : Word) : State :=
  { s with lastCmd := w, done := false, pend := { valid := true, word := w } }

/-- `OnCmdWrite(w)`, with its checks in their order (60_exceptions.md R224, R226). -/
def State.onCmdWrite (s : State) (w : Word) : State :=
  if s.err then s
  else if s.busy then s.cmdError .cmdBusy w
  else
    match decode w with
    | .illegal => s.cmdError .illegalOpcode w
    | .reserved => s.cmdError .reservedNonzero w
    | .command i =>
      if rangeOk s.k i = false then s.cmdError .slotRange w
      else if domainOk s i = false then s.cmdError .domain w
      else s.accept w

/-- A write to CTRL: with SRST = 1 the soft reset, whatever its other bits (70_reset_and_hazards.md R261); otherwise
IRQ_EN (10_state.md R31). -/
def State.onCtrlWrite (s : State) (w : Word) : State :=
  if w.getLsbD 1 then s.resetEvent else { s with irqEn := w.getLsbD 0 }

/-- A write to STATUS: bit 1 clears DONE, bit 2 clears the error record (10_state.md R32; 60_exceptions.md R231). -/
def State.onStatusWrite (s : State) (w : Word) : State :=
  let s' := if w.getLsbD 1 then { s with done := false } else s
  if w.getLsbD 2 then s'.clearError else s'

/-- A write to WINSEL (10_state.md R34; 60_exceptions.md R225). -/
def State.onWinselWrite (s : State) (w : Word) : State :=
  if s.busy then s.winBusyError 0x010 else { s with winsel := slotOfBits (w.extractLsb' 0 5) }

/-- A write to WIN[j] (20_memory.md R66). The tag does not change. -/
def State.onWinWrite (s : State) (j : Fin 256) (w : Word) : State :=
  if s.busy then s.winBusyError (winOffset j)
  else if Q ≤ w.toNat then s.winRangeError (winOffset j)
  else s.setSlot s.winsel ((s.slot s.winsel).set j (w.extractLsb' 0 12))

/-- A host write of a register. Writes to RO and RES locations are ignored (10_state.md R25, R27). -/
def State.writeReg (s : State) (r : Reg) (w : Word) : State :=
  match r with
  | .id => s
  | .ctrl => s.onCtrlWrite w
  | .status => s.onStatusWrite w
  | .cmd => s.onCmdWrite w
  | .winsel => s.onWinselWrite w
  | .tags => s
  | .errInfo => s
  | .win j => s.onWinWrite j w
  | .reserved => s

/-- The offset a platform byte address reaches, if it lies in the window (20_memory.md R62). -/
def Build.offset (b : Build) (addr : Nat) : Option Nat :=
  if b.base ≤ addr ∧ addr < b.base + 4096 then some (addr - b.base) else none

/-- Only an aligned 32-bit access takes effect (20_memory.md R64), and none while RST is asserted
(70_reset_and_hazards.md R260). -/
def State.takesEffect (s : State) (off size : Nat) : Bool := !s.rst && size = 4 && off % 4 = 0

/-- One host access: outside the window it is not seen (20_memory.md R62); one that does not take effect reads 0 and
writes nothing (R64, 70_reset_and_hazards.md R260). -/
def State.hostAccess (s : State) : Access → State
  | .read addr size =>
    match Build.offset s.build addr with
    | none => s
    | some off => { s with rdata := if s.takesEffect off size then s.readReg (regAt off) else 0 }
  | .write addr size w =>
    match Build.offset s.build addr with
    | none => s
    | some off => if s.takesEffect off size then s.writeReg (regAt off) w else s

end Sys2Proof.Machine
end

