-- ==== Sys2Proof/Machine/ModArith.lean ====
section
/-! DEFINITION. The arithmetic primitives over Z_3329, as the datapath computes them (40_modarith.md R121 to R125). -/

namespace Sys2Proof.Machine

/-- A number as a 12-bit coefficient cell. -/
def coeffOfNat (n : Nat) : Coeff := BitVec.ofNat 12 n

/-- ModAdd: one addition and one conditional subtraction of Q (40_modarith.md R121). The test `d >= 0` is `Q <= s`. -/
def modAdd (a b : Coeff) : Coeff :=
  let s := a.toNat + b.toNat
  coeffOfNat (if Q ≤ s then s - Q else s)

/-- ModSub: Q is added before the conditional subtraction, so nothing is negative (40_modarith.md R122). -/
def modSub (a b : Coeff) : Coeff :=
  let s := a.toNat + Q - b.toNat
  coeffOfNat (if Q ≤ s then s - Q else s)

/-- Barrett reduction with m = 20158 and shift 26, exact for `x < 2^26` (40_modarith.md R123, R124). -/
def barrett (x : Nat) : Nat :=
  let t := (x * 20158) >>> 26
  let r := x - t * Q
  if Q ≤ r then r - Q else r

/-- ModMul (40_modarith.md R125). -/
def modMul (a b : Coeff) : Coeff := coeffOfNat (barrett (a.toNat * b.toNat))

end Sys2Proof.Machine
end

