-- ==== Sys2Proof/Machine/PolyAddSub.lean ====
section
/-! DEFINITION. Coefficient-wise addition and subtraction: PADD and PSUB (43_poly_addsub.md R170, R171). -/

namespace Sys2Proof.Machine

/-- `ModAdd` on every coefficient (43_poly_addsub.md R170). -/
def polyAdd (p q : RingElem) : RingElem := ringZipWith modAdd p q

/-- `ModSub` on every coefficient (43_poly_addsub.md R171). -/
def polySub (p q : RingElem) : RingElem := ringZipWith modSub p q

/-- PADD pD, pA, pB (43_poly_addsub.md R170). -/
def execPadd (d a b : Slot) (s : State) : Host.Outcome State Fault Refusal :=
  runChecked (.padd d a b) s fun s => s.writeSlot d (polyAdd (s.slot a) (s.slot b)) (s.tag a)

/-- PSUB pD, pA, pB (43_poly_addsub.md R171). -/
def execPsub (d a b : Slot) (s : State) : Host.Outcome State Fault Refusal :=
  runChecked (.psub d a b) s fun s => s.writeSlot d (polySub (s.slot a) (s.slot b)) (s.tag a)

end Sys2Proof.Machine
end

