-- ==== Sys2Proof/Machine/Transform.lean ====
section
/-! DEFINITION. The twiddle tables, the forward and inverse transform, and the commands PNTT and PINTT
(41_ntt.md R140 to R151). -/

namespace Sys2Proof.Machine

/-- ZT, the forward twiddle table, row by row as 41_ntt.md R141 lists it. -/
def ztTable : List Nat :=
  [1, 1729, 2580, 3289, 2642, 630, 1897, 848, 1062, 1919, 193, 797, 2786, 3260, 569, 1746] ++
  [296, 2447, 1339, 1476, 3046, 56, 2240, 1333, 1426, 2094, 535, 2882, 2393, 2879, 1974, 821] ++
  [289, 331, 3253, 1756, 1197, 2304, 2277, 2055, 650, 1977, 2513, 632, 2865, 33, 1320, 1915] ++
  [2319, 1435, 807, 452, 1438, 2868, 1534, 2402, 2647, 2617, 1481, 648, 2474, 3110, 1227, 910] ++
  [17, 2761, 583, 2649, 1637, 723, 2288, 1100, 1409, 2662, 3281, 233, 756, 2156, 3015, 3050] ++
  [1703, 1651, 2789, 1789, 1847, 952, 1461, 2687, 939, 2308, 2437, 2388, 733, 2337, 268, 641] ++
  [1584, 2298, 2037, 3220, 375, 2549, 2090, 1645, 1063, 319, 2773, 757, 2099, 561, 2466, 2594] ++
  [2804, 1092, 403, 1026, 1143, 2150, 2775, 886, 1722, 1212, 1874, 1029, 2110, 2935, 885, 2154]

/-- GAM, the base-multiplication twiddle table, row by row as 41_ntt.md R146 lists it. -/
def gamTable : List Nat :=
  [17, 3312, 2761, 568, 583, 2746, 2649, 680, 1637, 1692, 723, 2606, 2288, 1041, 1100, 2229] ++
  [1409, 1920, 2662, 667, 3281, 48, 233, 3096, 756, 2573, 2156, 1173, 3015, 314, 3050, 279] ++
  [1703, 1626, 1651, 1678, 2789, 540, 1789, 1540, 1847, 1482, 952, 2377, 1461, 1868, 2687, 642] ++
  [939, 2390, 2308, 1021, 2437, 892, 2388, 941, 733, 2596, 2337, 992, 268, 3061, 641, 2688] ++
  [1584, 1745, 2298, 1031, 2037, 1292, 3220, 109, 375, 2954, 2549, 780, 2090, 1239, 1645, 1684] ++
  [1063, 2266, 319, 3010, 2773, 556, 757, 2572, 2099, 1230, 561, 2768, 2466, 863, 2594, 735] ++
  [2804, 525, 1092, 2237, 403, 2926, 1026, 2303, 1143, 2186, 2150, 1179, 2775, 554, 886, 2443] ++
  [1722, 1607, 1212, 2117, 1874, 1455, 1029, 2300, 2110, 1219, 2935, 394, 885, 2444, 2154, 1175]

/-- `ZT[i]`. -/
def zt (i : Nat) : Coeff := coeffOfNat (ztTable.getD i 0)

/-- `GAM[i]`. -/
def gam (i : Nat) : Coeff := coeffOfNat (gamTable.getD i 0)

/-- INV128 = 3303 (41_ntt.md R147). -/
def inv128 : Coeff := 3303

/-- The butterflies of one block of the forward transform: with `t = z·g[j + len]`, `g[j + len] <- g[j] - t` and
`g[j] <- g[j] + t` (41_ntt.md R142). `lo` and `hi` are the block's two halves. -/
def fwdBlock (z : Coeff) (lo hi : List Coeff) : List Coeff :=
  List.zipWith (fun x y => modAdd x (modMul z y)) lo hi ++ List.zipWith (fun x y => modSub x (modMul z y)) lo hi

/-- The first `n` blocks of a forward layer, the block at `start` taking `ZT[i]` and the next block `ZT[i + 1]`
(41_ntt.md R142). -/
def fwdLayer (len : Nat) : Nat → Nat → List Coeff → List Coeff
  | 0, _, _ => []
  | n + 1, i, g =>
    fwdBlock (zt i) (g.take len) ((g.drop len).take len) ++ fwdLayer len n (i + 1) (g.drop (2 * len))

/-- The layers' `len`, first to last (41_ntt.md R142). -/
def fwdLens : List Nat := [128, 64, 32, 16, 8, 4, 2]

/-- NTT on a coefficient list. Layer `len` has `128/len` blocks and starts at table index `128/len`: the index of
block b is `128/len + b` (41_ntt.md R142, R144). -/
def nttList (f : List Coeff) : List Coeff :=
  fwdLens.foldl (fun g len => fwdLayer len (128 / len) (128 / len) g) f

/-- NTT(f) (41_ntt.md R142). -/
def ntt (f : RingElem) : RingElem := ringElemOfList (nttList f.toList)

/-- The butterflies of one block of the inverse transform: `g[j] <- t + g[j + len]` and
`g[j + len] <- z·(g[j + len] - t)` with `t` the old `g[j]` (41_ntt.md R144). -/
def invBlock (z : Coeff) (lo hi : List Coeff) : List Coeff :=
  List.zipWith (fun x y => modAdd x y) lo hi ++ List.zipWith (fun x y => modMul z (modSub y x)) lo hi

/-- The first `n` blocks of an inverse layer; the table index goes down by one a block (41_ntt.md R144). -/
def invLayer (len : Nat) : Nat → Nat → List Coeff → List Coeff
  | 0, _, _ => []
  | n + 1, i, g =>
    invBlock (zt i) (g.take len) ((g.drop len).take len) ++ invLayer len n (i - 1) (g.drop (2 * len))

/-- The inverse layers' `len`, first to last (41_ntt.md R144). -/
def invLens : List Nat := [2, 4, 8, 16, 32, 64, 128]

/-- INTT on a coefficient list: the index of block b of layer `len` is `256/len - 1 - b`; the scaling by INV128 comes
last (41_ntt.md R144). -/
def inttList (f : List Coeff) : List Coeff :=
  (invLens.foldl (fun g len => invLayer len (128 / len) (256 / len - 1) g) f).map fun x => modMul x inv128

/-- INTT(f) (41_ntt.md R144). -/
def intt (f : RingElem) : RingElem := ringElemOfList (inttList f.toList)

/-- PNTT pD, pA (41_ntt.md R150). -/
def execPntt (d a : Slot) (s : State) : Host.Outcome State Fault Refusal :=
  runChecked (.pntt d a) s fun s => s.writeSlot d (ntt (s.slot a)) .ntt

/-- PINTT pD, pA (41_ntt.md R151). -/
def execPintt (d a : Slot) (s : State) : Host.Outcome State Fault Refusal :=
  runChecked (.pintt d a) s fun s => s.writeSlot d (intt (s.slot a)) .normal

end Sys2Proof.Machine
end

