-- ==== Sys2Proof/Machine/Pointwise.lean ====
section
/-! DEFINITION. Pointwise NTT-domain multiplication: BaseMul, PMUL and PMAC (42_pointwise.md R160 to R164). -/

namespace Sys2Proof.Machine

/-- `h0` of a pair, with one Barrett reduction of the sum (42_pointwise.md R162). -/
def baseMulLow (g : Coeff) (f0 f1 g0 g1 : Coeff) : Coeff :=
  coeffOfNat (barrett ((modMul f1 g1).toNat * g.toNat + f0.toNat * g0.toNat))

/-- `h1` of a pair (42_pointwise.md R162). -/
def baseMulHigh (f0 f1 g0 g1 : Coeff) : Coeff :=
  coeffOfNat (barrett (f0.toNat * g1.toNat + f1.toNat * g0.toNat))

/-- The pair products from pair `i` on (42_pointwise.md R160, R162). -/
def baseMulPairs : Nat → List Coeff → List Coeff → List Coeff
  | i, f0 :: f1 :: f, g0 :: g1 :: g =>
    baseMulLow (gam i) f0 f1 g0 g1 :: baseMulHigh f0 f1 g0 g1 :: baseMulPairs (i + 1) f g
  | _, _, _ => []

/-- BaseMul(f, g) (42_pointwise.md R160). -/
def baseMul (f g : RingElem) : RingElem := ringElemOfList (baseMulPairs 0 f.toList g.toList)

/-- PMUL pD, pA, pB (42_pointwise.md R163). -/
def execPmul (d a b : Slot) (s : State) : Host.Outcome State Fault Refusal :=
  runChecked (.pmul d a b) s fun s => s.writeSlot d (baseMul (s.slot a) (s.slot b)) .ntt

/-- PMAC pD, pA, pB (42_pointwise.md R164). -/
def execPmac (d a b : Slot) (s : State) : Host.Outcome State Fault Refusal :=
  runChecked (.pmac d a b) s fun s => s.writeSlot d (polyAdd (s.slot d) (baseMul (s.slot a) (s.slot b))) .ntt

end Sys2Proof.Machine
end

