-- ==== Sys2Proof/Machine/VectorOps.lean ====
section
/-! DEFINITION. The vector commands over K consecutive slots, each from one snapshot (44_vector.md R180 to R186). -/

namespace Sys2Proof.Machine

/-- Element `i` of the vector with base `b` (10_state.md R24). -/
def State.vec (s : State) (b : Slot) (i : Nat) : RingElem := s.slot (vecElem b i)

/-- VADD pD, pA, pB (44_vector.md R181). -/
def execVadd (d a b : Slot) (s : State) : Host.Outcome State Fault Refusal :=
  runChecked (.vadd d a b) s fun s =>
    s.writeVector d s.k (fun i => polyAdd (s.vec a i) (s.vec b i)) fun i => s.tag (vecElem a i)

/-- VSUB pD, pA, pB (44_vector.md R182). -/
def execVsub (d a b : Slot) (s : State) : Host.Outcome State Fault Refusal :=
  runChecked (.vsub d a b) s fun s =>
    s.writeVector d s.k (fun i => polySub (s.vec a i) (s.vec b i)) fun i => s.tag (vecElem a i)

/-- VNTT pD, pA (44_vector.md R183). -/
def execVntt (d a : Slot) (s : State) : Host.Outcome State Fault Refusal :=
  runChecked (.vntt d a) s fun s => s.writeVector d s.k (fun i => ntt (s.vec a i)) fun _ => .ntt

/-- VINTT pD, pA (44_vector.md R184). -/
def execVintt (d a : Slot) (s : State) : Host.Outcome State Fault Refusal :=
  runChecked (.vintt d a) s fun s => s.writeVector d s.k (fun i => intt (s.vec a i)) fun _ => .normal

/-- VPMUL pD, pA, pB (44_vector.md R185). -/
def execVpmul (d a b : Slot) (s : State) : Host.Outcome State Fault Refusal :=
  runChecked (.vpmul d a b) s fun s =>
    s.writeVector d s.k (fun i => baseMul (s.vec a i) (s.vec b i)) fun _ => .ntt

/-- `acc` after the first `n` elements of the inner product (44_vector.md R186). -/
def State.dotSum (s : State) (a b : Slot) (n : Nat) : RingElem :=
  (List.range n).foldl (fun acc i => polyAdd acc (baseMul (s.vec a i) (s.vec b i))) ringZero

/-- VDOT pD, pA, pB: one slot is written; its old value is not read (44_vector.md R186). -/
def execVdot (d a b : Slot) (s : State) : Host.Outcome State Fault Refusal :=
  runChecked (.vdot d a b) s fun s => s.writeSlot d (s.dotSum a b s.k) .ntt

end Sys2Proof.Machine
end

