-- ==== Sys2Proof/Machine/Dispatch.lean ====
section
/-! DEFINITION. `Execute(w)` of 10_state.md R40: one arm per command, each one call of the command's meaning. -/

namespace Sys2Proof.Machine

def exec (i : Instr) (s : State) : Host.Outcome State Fault Refusal :=
  match i with
  | .nop => Sys2Proof.Machine.execNop s
  | .padd d a b => Sys2Proof.Machine.execPadd d a b s
  | .psub d a b => Sys2Proof.Machine.execPsub d a b s
  | .pntt d a => Sys2Proof.Machine.execPntt d a s
  | .pintt d a => Sys2Proof.Machine.execPintt d a s
  | .pmul d a b => Sys2Proof.Machine.execPmul d a b s
  | .pmac d a b => Sys2Proof.Machine.execPmac d a b s
  | .pcopy d a => Sys2Proof.Machine.execPcopy d a s
  | .pzero d t => Sys2Proof.Machine.execPzero d t s
  | .settag d t => Sys2Proof.Machine.execSettag d t s
  | .clrall => Sys2Proof.Machine.execClrall s
  | .vadd d a b => Sys2Proof.Machine.execVadd d a b s
  | .vsub d a b => Sys2Proof.Machine.execVsub d a b s
  | .vntt d a => Sys2Proof.Machine.execVntt d a s
  | .vintt d a => Sys2Proof.Machine.execVintt d a s
  | .vpmul d a b => Sys2Proof.Machine.execVpmul d a b s
  | .vdot d a b => Sys2Proof.Machine.execVdot d a b s

end Sys2Proof.Machine
end

