-- ==== Sys2Proof/Machine/Engine.lean ====
section
/-! DEFINITION. The engine step (10_state.md R40). -/

namespace Sys2Proof.Machine

/-- The end of a command: `PEND.valid <- 0`, `STATUS.DONE <- 1` (10_state.md R40). -/
def State.complete (s : State) : State := { s with pend := { s.pend with valid := false }, done := true }

/-- The engine's turn: it performs the pending command, or the pending zeroization, as one step; with neither pending,
or while RST is asserted (log 6), it does nothing (10_state.md R40). -/
def State.engineStep (s : State) : Host.Outcome State Fault Refusal :=
  if s.rst then .next s
  else if s.pend.valid then
    match decode s.pend.word with
    | .command i =>
      match exec i s with
      | .next t => .next t.complete
      | .fault f => .fault f
      | .refused r => .refused r
    | .illegal => .fault .pendingWordNotACommand
    | .reserved => .fault .pendingWordNotACommand
  else if s.clr then .next s.zeroize
  else .next s

end Sys2Proof.Machine
end

