-- ==== Sys2Proof/Machine/Step.lean ====
section
/-! DEFINITION. One step of the total order of steps (20_memory.md R71): the next event, or, when no event waits, the
engine's turn (70_reset_and_hazards.md R275). Log 3. -/

namespace Sys2Proof.Machine

/-- The next step. -/
def step (s : State) : Host.Outcome State Fault Refusal :=
  match s.events with
  | [] => s.engineStep
  | .engine :: rest => State.engineStep { s with events := rest }
  | .access a :: rest => .next (State.hostAccess { s with events := rest } a)
  | .rst asserted :: rest => .next (State.rstInput { s with events := rest } asserted)

/-- `s` with the command word pending and the engine's turn next, so that the very next step performs it: PEND is where
the engine takes a command from (10_state.md R38, R40). Log 5. -/
def State.withFetchWord (s : State) (nbits w : Nat) : State :=
  { s with
    pend := { valid := true, word := BitVec.ofNat 32 (w % 2 ^ nbits) }
    clr := false
    rst := false
    events := .engine :: s.events }

end Sys2Proof.Machine
end

