-- ==== Sys2Proof/Safety.lean ====
section
/-! DEFINITION. The terms the claims use: the invariants of a run, frames, what raising an error does, and the
mathematics the transforms are held to. Nothing here is part of the machine. -/

namespace Sys2Proof.Safety

open Sys2Proof.Machine

/-- Every coefficient of a ring element is a value in 0..Q-1 (00_scope.md R17, "Canonical"). -/
def CanonicalElem (p : RingElem) : Prop := ∀ j : Fin 256, (p[j]).toNat < Q

/-- "At every point, every coefficient S[s][j] lies in 0..3328" (10_state.md R41). The tags are in {0, 1} by type. -/
def Canonical (s : State) : Prop := ∀ e : Slot, CanonicalElem (s.slot e)

/-- A pending command has passed every check of its acceptance (60_exceptions.md R220, R224), is the last accepted
word, and has DONE cleared. -/
def PendingChecked (s : State) : Prop :=
  s.pend.valid = true →
    s.lastCmd = s.pend.word ∧
      ∃ i, decode s.pend.word = .command i ∧ rangeOk s.k i = true ∧ domainOk s i = true

/-- "At most one of the two is set at any time" (10_state.md R38). -/
def OnePending (s : State) : Prop := ¬(s.pend.valid = true ∧ s.clr = true)

/-- ERRCODE and ERRINFO are 0 when ERR = 0 (10_state.md R32, R36), and a recorded error has a code. -/
def ErrorRecordCoherent (s : State) : Prop :=
  (s.err = false → s.errCode = .none ∧ s.errInfo = 0) ∧ (s.err = true → s.errCode ≠ .none)

/-- DONE is 0 while anything is pending (10_state.md R32, R42; 60_exceptions.md R224). -/
def DoneClearWhileBusy (s : State) : Prop := s.busy = true → s.done = false

/-- While RST is asserted the registers stay at their reset values (70_reset_and_hazards.md R260, log 6). -/
def HeldInReset (s : State) : Prop :=
  s.rst = true → s.pend.valid = false ∧ s.clr = true ∧ s.irqEn = false ∧ s.err = false ∧ s.winsel = 0

/-- The invariant of every run. -/
structure Inv (s : State) : Prop where
  canonical : Canonical s
  pendingChecked : PendingChecked s
  onePending : OnePending s
  errorRecord : ErrorRecordCoherent s
  doneClear : DoneClearWhileBusy s
  heldInReset : HeldInReset s

/-! ### Frames -/

/-- Only the slot file and the tag file may differ: every register, PEND, CLR, the build, the bus port and the waiting
events are the same. -/
def OnlySlotsAndTags (s t : State) : Prop := t = { s with slots := t.slots, tags := t.tags }

/-- Every slot outside `ds` keeps its coefficients and its tag. -/
def OutsideUnchanged (ds : List Slot) (s t : State) : Prop :=
  ∀ e : Slot, e ∉ ds → t.slot e = s.slot e ∧ t.tag e = s.tag e

/-- The frame of a command that writes the slots `ds`. -/
def FramedBy (ds : List Slot) (s t : State) : Prop := OnlySlotsAndTags s t ∧ OutsideUnchanged ds s t

/-- The K slots of the vector with base `b` (10_state.md R24). -/
def vecSlots (s : State) (b : Slot) : List Slot := (List.range s.k).map (vecElem b)

/-- The base is legal for this build, `b + K - 1 <= 31` (10_state.md R24). -/
def BaseLegal (s : State) (b : Slot) : Prop := b.val + s.k - 1 ≤ 31

/-! ### Raising an error, and issuing a command -/

/-- `t` is `s` after `raise CmdError(code, w)`: the record is written when none is held, and nothing else changes
(60_exceptions.md R222 to R224). -/
def RaisedFrom (code : ErrCode) (w : Word) (s t : State) : Prop :=
  (s.err = true → t = s) ∧ (s.err = false → t = { s with err := true, errCode := code, errInfo := w })

/-- The command raises `code`: at its CMD write when the gate is open (60_exceptions.md R224), and as the `require` line
of its rule says. -/
def Raises (code : ErrCode) (i : Instr) (s : State) : Prop :=
  (∃ t, exec i s = .next t ∧ RaisedFrom code (encode i) s t) ∧
    (s.err = false → s.busy = false → RaisedFrom code (encode i) s (s.onCmdWrite (encode i)))

/-- A write of the command's word is accepted when the gate is open: LASTCMD, DONE and PEND change, nothing else
(60_exceptions.md R224). -/
def Accepted (i : Instr) (s : State) : Prop :=
  s.err = false → s.busy = false →
    s.onCmdWrite (encode i) =
      { s with lastCmd := encode i, done := false, pend := { valid := true, word := encode i } }

/-- What holds of every command alike: its word, the rejection of its must-be-zero bits, the ERR-pending drop and
CMD_BUSY at the CMD write, and DONE set by the engine step that completes it (the "Encoding", "Errors" and "Tags written"
lines of each command rule; 10_state.md R40; 60_exceptions.md R224). -/
def IssuedLikeEveryCommand (i : Instr) (word mask : Word) : Prop :=
  encode i = word ∧
  (∀ w : Word, w.extractLsb' 0 8 = word.extractLsb' 0 8 → w &&& mask ≠ 0 →
    decode w = .reserved ∧
      ∀ s : State, s.err = false → s.busy = false → RaisedFrom .reservedNonzero w s (s.onCmdWrite w)) ∧
  (∀ s : State, s.err = true → s.onCmdWrite word = s) ∧
  (∀ s : State, s.err = false → s.busy = true → RaisedFrom .cmdBusy word s (s.onCmdWrite word)) ∧
  (∀ s t : State, s.rst = false → s.pend = { valid := true, word := word } → exec i s = .next t →
    s.engineStep = .next { t with pend := { valid := false, word := t.pend.word }, done := true })

/-! ### Events -/

/-- With event `e` next, the step leads from `s` to `t`, whatever events wait behind it. -/
def Takes (s : State) (e : Event) (t : State) : Prop :=
  ∀ rest : List Event, step { s with events := e :: rest } = .next { t with events := rest }

/-- An aligned 32-bit host write of `v` at window offset `off` leads from `s` to `t`: `MemWrite(off, 4, v)`
(00_scope.md R12). -/
def HostWrites (s : State) (off : Nat) (v : Word) (t : State) : Prop :=
  Takes s (.access (.write (s.build.base + off) 4 v)) t

/-- A 32-bit host read at window offset `off` returns `v` and changes nothing but the port's read data:
`MemRead(off, 4)` (00_scope.md R12). -/
def HostReads (s : State) (off : Nat) (v : Word) : Prop :=
  Takes s (.access (.read (s.build.base + off) 4)) { s with rdata := v }

/-- `u` holds the values of 10_state.md R42 just after a reset event that struck `s`; S and T are unspecified there, and
what is not KRAE's own register (the build, the port's read data, the waiting events) is as in `s`. -/
def ResetFrom (s u : State) : Prop :=
  u = { s with
    slots := u.slots, tags := u.tags, irqEn := false, done := false, err := false, errCode := .none, errInfo := 0,
    lastCmd := 0, winsel := 0, pend := { valid := false, word := 0 }, clr := true, rst := u.rst, resets := u.resets }

/-- `s` after the zeroization step (10_state.md R40). -/
def zeroized (s : State) : State :=
  { s with
    slots := Vector.replicate 32 (Vector.replicate 256 0), tags := Vector.replicate 32 .normal, clr := false }

/-! ### The mathematics of the transforms -/

/-- The 7-bit number whose bit k is bit 6-k of i (41_ntt.md R141). -/
def bitRev7 (i : Nat) : Nat := (List.range 7).foldl (fun acc k => 2 * acc + i / 2 ^ k % 2) 0

/-- The polynomial over Z_Q with the given coefficients (41_ntt.md R140). -/
noncomputable def toPolynomial (f : RingElem) : Polynomial (ZMod 3329) :=
  ∑ j : Fin 256, Polynomial.C (((f[j]).toNat : ℕ) : ZMod 3329) * Polynomial.X ^ j.val

/-- Coefficient `k` of the negacyclic product: `sum_{i+j=k} a[i]·b[j] - sum_{i+j=k+256} a[i]·b[j] mod Q`
(42_pointwise.md R161), as an element of Z_Q. -/
def negacyclicCoeff (a b : RingElem) (k : Fin 256) : ZMod 3329 :=
  ∑ i : Fin 256, ∑ j : Fin 256,
    if i.val + j.val = k.val then (((a[i]).toNat * (b[j]).toNat : ℕ) : ZMod 3329)
    else if i.val + j.val = k.val + 256 then -(((a[i]).toNat * (b[j]).toNat : ℕ) : ZMod 3329)
    else 0

/-- Coefficient `n` of a ring element as a number, 0 past its end. -/
def coeffAt (p : RingElem) (n : Nat) : Nat := (p.toList.getD n 0).toNat

/-- `GAM[i] = 17^(2·BitRev7(i)+1) mod 3329` (41_ntt.md R146), from its formula. -/
def gamma (i : Nat) : Nat := 17 ^ (2 * bitRev7 i + 1) % 3329

/-- Coefficient `n` of BaseMul(f, g) by the formula of 42_pointwise.md R160. -/
def baseMulCoeff (f g : RingElem) (n : Nat) : Nat :=
  if n % 2 = 0 then
    (coeffAt f n * coeffAt g n + coeffAt f (n + 1) * coeffAt g (n + 1) * gamma (n / 2)) % 3329
  else (coeffAt f (n - 1) * coeffAt g n + coeffAt f n * coeffAt g (n - 1)) % 3329

/-- Coefficient `j` of a list, 0 past its end. -/
def at' (g : List Coeff) (j : Nat) : Coeff := g.getD j 0

/-- The inner loop body of 41_ntt.md R142, in place. -/
def fwdButterfly (z : Coeff) (len : Nat) (g : List Coeff) (j : Nat) : List Coeff :=
  let t := modMul z (at' g (j + len))
  let g' := g.set (j + len) (modSub (at' g j) t)
  g'.set j (modAdd (at' g' j) t)

/-- One block of R142: `z <- ZT[i]; i <- i + 1`, then the butterflies for j = start .. start + len - 1. -/
def fwdLoopBlock (len : Nat) (gi : List Coeff × Nat) (start : Nat) : List Coeff × Nat :=
  ((List.range len).foldl (fun g r => fwdButterfly (zt gi.2) len g (start + r)) gi.1, gi.2 + 1)

/-- One layer of R142: the blocks at start = 0, 2·len, 4·len, …. -/
def fwdLoopLayer (gi : List Coeff × Nat) (len : Nat) : List Coeff × Nat :=
  ((List.range (128 / len)).map (2 * len * ·)).foldl (fwdLoopBlock len) gi

/-- NTT as the loop nest of 41_ntt.md R142, with its running table index. -/
def nttLoop (f : List Coeff) : List Coeff × Nat := [128, 64, 32, 16, 8, 4, 2].foldl fwdLoopLayer (f, 1)

/-- The inner loop body of 41_ntt.md R144, in place. -/
def invButterfly (z : Coeff) (len : Nat) (g : List Coeff) (j : Nat) : List Coeff :=
  let t := at' g j
  let g' := g.set j (modAdd t (at' g (j + len)))
  g'.set (j + len) (modMul z (modSub (at' g' (j + len)) t))

/-- One block of R144: `z <- ZT[i]; i <- i - 1`, then the butterflies. -/
def invLoopBlock (len : Nat) (gi : List Coeff × Nat) (start : Nat) : List Coeff × Nat :=
  ((List.range len).foldl (fun g r => invButterfly (zt gi.2) len g (start + r)) gi.1, gi.2 - 1)

/-- One layer of R144. -/
def invLoopLayer (gi : List Coeff × Nat) (len : Nat) : List Coeff × Nat :=
  ((List.range (128 / len)).map (2 * len * ·)).foldl (invLoopBlock len) gi

/-- INTT as the loop nest of 41_ntt.md R144, with its running table index, before the scaling. -/
def inttLoop (f : List Coeff) : List Coeff × Nat := [2, 4, 8, 16, 32, 64, 128].foldl invLoopLayer (f, 127)

/-- The scaling loop of R144: `g[j] <- ModMul(g[j], INV128)`. -/
def scaleLoop (g : List Coeff) : List Coeff :=
  (List.range 256).foldl (fun g j => g.set j (modMul (at' g j) inv128)) g

end Sys2Proof.Safety
end

