-- ==== Sys2Proof/Certificates/Slice0/Obligations.lean ====
section
/-! DEFINITION. The statements for the provers, from the spec's numbered rules. -/

open Sys2Proof Sys2Proof.Machine Sys2Proof.Safety

/-! ### Encoding -/

/-- Decoding an encoded command gives it back, for every command and every operand (30_encoding.md R91, R95, R98). -/
def Obligations.DecodeEncodeRoundTrip : Prop := ∀ i : Instr, decode (encode i) = .command i

/-- A word that decodes to a command is that command's encoding: no bit is ignored (30_encoding.md R91, R93, R97). -/
def Obligations.EncodeDecodeRoundTrip : Prop := ∀ (w : Word) (i : Instr), decode w = .command i → encode i = w

/-- 30_encoding.md R96: exactly the opcodes it lists are illegal, and a CMD write of one records ILLEGAL_OPCODE and
changes nothing else. -/
def Obligations.IllegalOpcodeRejected : Prop :=
  ∀ w : Word,
    let opc := (w.extractLsb' 0 8).toNat
    (decode w = .illegal ↔ opc = 0x07 ∨ (0x0C ≤ opc ∧ opc ≤ 0x10) ∨ (0x17 ≤ opc ∧ opc ≤ 0xFF)) ∧
      ∀ s : State, decode w = .illegal → s.rst = false → s.err = false → s.busy = false →
        ∃ t, HostWrites s 0x00C w t ∧ RaisedFrom .illegalOpcode w s t

/-- 30_encoding.md R97, with the formats of R95 and the masks of R93 written out: a must-be-zero bit makes the word
reserved, and a CMD write of it records RESERVED_NONZERO and changes nothing else. -/
def Obligations.ReservedBitsRejected : Prop :=
  ∀ (w mask : Word) (opc : Nat), opc = (w.extractLsb' 0 8).toNat →
    (opc ∈ [0x00, 0x0B] ∧ mask = 0xFFFFFF00) ∨ (opc ∈ [0x09, 0x0A] ∧ mask = 0xFFFEE000) ∨
      (opc ∈ [0x03, 0x04, 0x08, 0x13, 0x14] ∧ mask = 0xFFE0E000) ∨
      (opc ∈ [0x01, 0x02, 0x05, 0x06, 0x11, 0x12, 0x15, 0x16] ∧ mask = 0xE0E0E000) →
    (decode w = .reserved ↔ w &&& mask ≠ 0) ∧
      ∀ s : State, decode w = .reserved → s.rst = false → s.err = false → s.busy = false →
        ∃ t, HostWrites s 0x00C w t ∧ RaisedFrom .reservedNonzero w s t

/-- Words of 95_test_vectors.md, one of each format and family, decode to the commands they are listed as. -/
def Obligations.SampleWordsDecode : Prop :=
  decode 0x00000000 = .command .nop ∧ decode 0x0000000B = .command .clrall ∧
  decode 0x01000201 = .command (.padd 2 0 1) ∧ decode 0x00010303 = .command (.pntt 3 1) ∧
  decode 0x03020405 = .command (.pmul 4 2 3) ∧ decode 0x03000A06 = .command (.pmac 10 0 3) ∧
  decode 0x00010509 = .command (.pzero 5 .ntt) ∧ decode 0x0001020A = .command (.settag 2 .ntt) ∧
  decode 0x03001D11 = .command (.vadd 29 0 3) ∧ decode 0x00040614 = .command (.vintt 6 4) ∧
  decode 0x08001416 = .command (.vdot 20 0 8)

/-! ### Arithmetic -/

/-- 40_modarith.md R124: Barrett is exact on its domain, its quotient estimate is floor(x/Q) or one less because its
error is below 1, the first x whose remainder estimate reaches 2Q is 77,519,094, and every caller's x is below 2^26. -/
def Obligations.BarrettExact : Prop :=
  (∀ x : Nat, x < 2 ^ 26 → barrett x = x % 3329) ∧
  (∀ x : Nat, x < 77517490 → x * 2882 < 3329 * 2 ^ 26 ∧
    (x * 20158 / 2 ^ 26 = x / 3329 ∨ x * 20158 / 2 ^ 26 + 1 = x / 3329)) ∧
  (∀ x : Nat, x < 77519094 → x - x * 20158 / 2 ^ 26 * 3329 < 2 * 3329) ∧
  2 * 3329 ≤ 77519094 - 77519094 * 20158 / 2 ^ 26 * 3329 ∧
  ∀ a b c d : Coeff, a.toNat < 3329 → b.toNat < 3329 → c.toNat < 3329 → d.toNat < 3329 →
    a.toNat * b.toNat < 2 ^ 26 ∧ a.toNat * b.toNat + c.toNat * d.toNat < 2 ^ 26 ∧
    (modMul a b).toNat * c.toNat + d.toNat * a.toNat < 2 ^ 26

/-- 40_modarith.md R129: on canonical operands the primitives are exact arithmetic modulo Q. -/
def Obligations.ModularOpsExact : Prop :=
  ∀ a b : Coeff, a.toNat < 3329 → b.toNat < 3329 →
    (modAdd a b).toNat = (a.toNat + b.toNat) % 3329 ∧
    ((modSub a b).toNat : ℤ) = ((a.toNat : ℤ) - b.toNat) % 3329 ∧
    (modMul a b).toNat = (a.toNat * b.toNat) % 3329

/-- The laws of 40_modarith.md R127 on canonical values. -/
def Obligations.ModularLaws : Prop :=
  ∀ a b c : Coeff, a.toNat < 3329 → b.toNat < 3329 → c.toNat < 3329 →
    modAdd a b = modAdd b a ∧ modMul a b = modMul b a ∧
    modAdd (modAdd a b) c = modAdd a (modAdd b c) ∧ modMul (modMul a b) c = modMul a (modMul b c) ∧
    modMul a (modAdd b c) = modAdd (modMul a b) (modMul a c) ∧
    modAdd a 0 = a ∧ modMul a 1 = a ∧ modSub a b = modAdd a (modSub 0 b)

/-! ### Transforms and product -/

/-- The tables ZT and GAM hold the values of their formulas, and GAM is built from ZT as 41_ntt.md R146 says. -/
def Obligations.TwiddleTables : Prop :=
  (∀ i : Fin 128, (zt i.val).toNat = 17 ^ bitRev7 i.val % 3329 ∧ (gam i.val).toNat = gamma i.val) ∧
  (∀ i : Fin 64, gam (2 * i.val) = zt (64 + i.val) ∧
    (gam (2 * i.val + 1)).toNat = 3329 - (zt (64 + i.val)).toNat) ∧
  inv128.toNat = 3303 ∧ 128 * inv128.toNat = 127 * 3329 + 1

/-- 41_ntt.md R142: NTT is its loop nest, the table index ends at 128, and canonical input gives canonical output. -/
def Obligations.NttMatchesLoop : Prop :=
  ∀ f : RingElem, nttLoop f.toList = ((ntt f).toList, 128) ∧ (CanonicalElem f → CanonicalElem (ntt f))

/-- 41_ntt.md R144: INTT is its loop nest followed by the scaling, the table index ends at 0, and the table entry each
inverse block reads is minus the inverse of the forward one of the same block. -/
def Obligations.InttMatchesLoop : Prop :=
  (∀ f : RingElem, (inttLoop f.toList).2 = 0 ∧ scaleLoop (inttLoop f.toList).1 = (intt f).toList) ∧
  ∀ len ∈ [2, 4, 8, 16, 32, 64, 128], ∀ b < 128 / len,
    (zt (256 / len - 1 - b)).toNat * (zt (128 / len + b)).toNat % 3329 = 3329 - 1

/-- 41_ntt.md R145, the inverse law, in both directions and with no scaling factor. -/
def Obligations.InverseLaw : Prop :=
  ∀ p : RingElem, CanonicalElem p → intt (ntt p) = p ∧ ntt (intt p) = p

/-- The displayed formula of 41_ntt.md R143: pair i of NTT(f) is f(X) mod (X^2 - GAM[i]). -/
def Obligations.NttResidues : Prop :=
  ∀ f : RingElem, CanonicalElem f → ∀ i : Fin 128,
    toPolynomial f %ₘ (Polynomial.X ^ 2 - Polynomial.C ((gamma i.val : ℕ) : ZMod 3329)) =
      Polynomial.C ((coeffAt (ntt f) (2 * i.val) : ℕ) : ZMod 3329) +
        Polynomial.C ((coeffAt (ntt f) (2 * i.val + 1) : ℕ) : ZMod 3329) * Polynomial.X

/-- The 128 moduli X^2 - GAM[i] of 41_ntt.md R143, GAM the engine's table, have the product X^256 + 1. -/
def Obligations.ModuliFactorRing : Prop :=
  (∏ i : Fin 128, (Polynomial.X ^ 2 - Polynomial.C (((gam i.val).toNat : ℕ) : ZMod 3329))) =
    Polynomial.X ^ 256 + 1

/-- 42_pointwise.md R161: BaseMul is ring multiplication in the NTT domain, commutative, and bilinear over ModAdd. -/
def Obligations.NegacyclicProduct : Prop :=
  (∀ a b : RingElem, CanonicalElem a → CanonicalElem b → ∀ k : Fin 256,
    ((coeffAt (intt (baseMul (ntt a) (ntt b))) k.val : ℕ) : ZMod 3329) = negacyclicCoeff a b k) ∧
  (∀ f g h : RingElem, CanonicalElem f → CanonicalElem g → CanonicalElem h →
    baseMul f g = baseMul g f ∧
    baseMul (polyAdd f g) h = polyAdd (baseMul f h) (baseMul g h) ∧
    baseMul h (polyAdd f g) = polyAdd (baseMul h f) (baseMul h g) ∧
    ∀ c : Coeff, c.toNat < 3329 →
      baseMul (ringElemOfList (f.toList.map (modMul c))) g = ringElemOfList ((baseMul f g).toList.map (modMul c)))

/-- 42_pointwise.md R160: the two formulas of every pair, with GAM by its formula. -/
def Obligations.BaseMulFormula : Prop :=
  ∀ f g : RingElem, CanonicalElem f → CanonicalElem g → ∀ i : Fin 128,
    coeffAt (baseMul f g) (2 * i.val) =
      (coeffAt f (2 * i.val) * coeffAt g (2 * i.val) +
        coeffAt f (2 * i.val + 1) * coeffAt g (2 * i.val + 1) * gamma i.val) % 3329 ∧
    coeffAt (baseMul f g) (2 * i.val + 1) =
      (coeffAt f (2 * i.val) * coeffAt g (2 * i.val + 1) + coeffAt f (2 * i.val + 1) * coeffAt g (2 * i.val)) % 3329

/-- Addition and subtraction mean the same in both domains (the opening of 43_poly_addsub.md). -/
def Obligations.NttAdditive : Prop :=
  ∀ p q : RingElem, CanonicalElem p → CanonicalElem q →
    ntt (polyAdd p q) = polyAdd (ntt p) (ntt q) ∧ ntt (polySub p q) = polySub (ntt p) (ntt q)

/-! ### The commands -/

/-- 45_housekeeping.md R200. -/
def Obligations.NopRule : Prop :=
  IssuedLikeEveryCommand .nop 0x00000000 0xFFFFFF00 ∧
  ∀ s : State, Accepted .nop s ∧ exec .nop s = .next s

/-- 43_poly_addsub.md R170. -/
def Obligations.PaddRule : Prop :=
  ∀ d a b : Slot,
    IssuedLikeEveryCommand (.padd d a b)
      (BitVec.ofNat 32 (b.val * 2 ^ 24 + a.val * 2 ^ 16 + d.val * 2 ^ 8 + 0x01)) 0xE0E0E000 ∧
    ∀ s : State,
      (s.tag a ≠ s.tag b → Raises .domain (.padd d a b) s) ∧
      (s.tag a = s.tag b → Accepted (.padd d a b) s ∧
        ∃ t, exec (.padd d a b) s = .next t ∧ FramedBy [d] s t ∧ t.tag d = s.tag a ∧
          (Canonical s → ∀ j < 256,
            coeffAt (t.slot d) j = (coeffAt (s.slot a) j + coeffAt (s.slot b) j) % 3329))

/-- 43_poly_addsub.md R171. -/
def Obligations.PsubRule : Prop :=
  ∀ d a b : Slot,
    IssuedLikeEveryCommand (.psub d a b)
      (BitVec.ofNat 32 (b.val * 2 ^ 24 + a.val * 2 ^ 16 + d.val * 2 ^ 8 + 0x02)) 0xE0E0E000 ∧
    ∀ s : State,
      (s.tag a ≠ s.tag b → Raises .domain (.psub d a b) s) ∧
      (s.tag a = s.tag b → Accepted (.psub d a b) s ∧
        ∃ t, exec (.psub d a b) s = .next t ∧ FramedBy [d] s t ∧ t.tag d = s.tag a ∧
          (Canonical s → ∀ j < 256,
            (coeffAt (t.slot d) j : ℤ) = ((coeffAt (s.slot a) j : ℤ) - coeffAt (s.slot b) j) % 3329))

/-- 41_ntt.md R150. -/
def Obligations.PnttRule : Prop :=
  ∀ d a : Slot,
    IssuedLikeEveryCommand (.pntt d a) (BitVec.ofNat 32 (a.val * 2 ^ 16 + d.val * 2 ^ 8 + 0x03)) 0xFFE0E000 ∧
    ∀ s : State,
      (s.tag a ≠ .normal → Raises .domain (.pntt d a) s) ∧
      (s.tag a = .normal → Accepted (.pntt d a) s ∧
        ∃ t, exec (.pntt d a) s = .next t ∧ FramedBy [d] s t ∧ t.tag d = .ntt ∧
          (t.slot d).toList = (nttLoop (s.slot a).toList).1)

/-- 41_ntt.md R151. -/
def Obligations.PinttRule : Prop :=
  ∀ d a : Slot,
    IssuedLikeEveryCommand (.pintt d a) (BitVec.ofNat 32 (a.val * 2 ^ 16 + d.val * 2 ^ 8 + 0x04)) 0xFFE0E000 ∧
    ∀ s : State,
      (s.tag a ≠ .ntt → Raises .domain (.pintt d a) s) ∧
      (s.tag a = .ntt → Accepted (.pintt d a) s ∧
        ∃ t, exec (.pintt d a) s = .next t ∧ FramedBy [d] s t ∧ t.tag d = .normal ∧
          (t.slot d).toList = scaleLoop (inttLoop (s.slot a).toList).1)

/-- 42_pointwise.md R163. -/
def Obligations.PmulRule : Prop :=
  ∀ d a b : Slot,
    IssuedLikeEveryCommand (.pmul d a b)
      (BitVec.ofNat 32 (b.val * 2 ^ 24 + a.val * 2 ^ 16 + d.val * 2 ^ 8 + 0x05)) 0xE0E0E000 ∧
    ∀ s : State,
      (¬(s.tag a = .ntt ∧ s.tag b = .ntt) → Raises .domain (.pmul d a b) s) ∧
      (s.tag a = .ntt → s.tag b = .ntt → Accepted (.pmul d a b) s ∧
        ∃ t, exec (.pmul d a b) s = .next t ∧ FramedBy [d] s t ∧ t.tag d = .ntt ∧
          (Canonical s → ∀ j < 256, coeffAt (t.slot d) j = baseMulCoeff (s.slot a) (s.slot b) j))

/-- 42_pointwise.md R164. -/
def Obligations.PmacRule : Prop :=
  ∀ d a b : Slot,
    IssuedLikeEveryCommand (.pmac d a b)
      (BitVec.ofNat 32 (b.val * 2 ^ 24 + a.val * 2 ^ 16 + d.val * 2 ^ 8 + 0x06)) 0xE0E0E000 ∧
    ∀ s : State,
      (¬(s.tag a = .ntt ∧ s.tag b = .ntt ∧ s.tag d = .ntt) → Raises .domain (.pmac d a b) s) ∧
      (s.tag a = .ntt → s.tag b = .ntt → s.tag d = .ntt → Accepted (.pmac d a b) s ∧
        ∃ t, exec (.pmac d a b) s = .next t ∧ FramedBy [d] s t ∧ t.tag d = .ntt ∧
          (Canonical s → ∀ j < 256,
            coeffAt (t.slot d) j = (coeffAt (s.slot d) j + baseMulCoeff (s.slot a) (s.slot b) j) % 3329))

/-- 45_housekeeping.md R201. -/
def Obligations.PcopyRule : Prop :=
  ∀ d a : Slot,
    IssuedLikeEveryCommand (.pcopy d a) (BitVec.ofNat 32 (a.val * 2 ^ 16 + d.val * 2 ^ 8 + 0x08)) 0xFFE0E000 ∧
    ∀ s : State, Accepted (.pcopy d a) s ∧
      ∃ t, exec (.pcopy d a) s = .next t ∧ FramedBy [d] s t ∧ t.slot d = s.slot a ∧ t.tag d = s.tag a ∧
        (d = a → t = s)

/-- 45_housekeeping.md R202. -/
def Obligations.PzeroRule : Prop :=
  ∀ (d : Slot) (t : Domain),
    IssuedLikeEveryCommand (.pzero d t) (BitVec.ofNat 32 (t.toNat * 2 ^ 16 + d.val * 2 ^ 8 + 0x09)) 0xFFFEE000 ∧
    ∀ s : State, Accepted (.pzero d t) s ∧
      ∃ u, exec (.pzero d t) s = .next u ∧ FramedBy [d] s u ∧ u.tag d = t ∧ ∀ j < 256, coeffAt (u.slot d) j = 0

/-- 45_housekeeping.md R203. -/
def Obligations.SettagRule : Prop :=
  ∀ (d : Slot) (t : Domain),
    IssuedLikeEveryCommand (.settag d t) (BitVec.ofNat 32 (t.toNat * 2 ^ 16 + d.val * 2 ^ 8 + 0x0A)) 0xFFFEE000 ∧
    ∀ s : State, Accepted (.settag d t) s ∧
      ∃ u, exec (.settag d t) s = .next u ∧ FramedBy [d] s u ∧ u.tag d = t ∧ u.slots = s.slots

/-- 45_housekeeping.md R204: the effect on S and T is that of the reset zeroization; no register changes. -/
def Obligations.ClrallRule : Prop :=
  IssuedLikeEveryCommand .clrall 0x0000000B 0xFFFFFF00 ∧
  ∀ s : State, Accepted .clrall s ∧
    ∃ t, exec .clrall s = .next t ∧ OnlySlotsAndTags s t ∧
      (∀ e : Slot, t.tag e = .normal ∧ ∀ j < 256, coeffAt (t.slot e) j = 0) ∧
      t.slots = (zeroized s).slots ∧ t.tags = (zeroized s).tags

/-- 44_vector.md R181. -/
def Obligations.VaddRule : Prop :=
  ∀ d a b : Slot,
    IssuedLikeEveryCommand (.vadd d a b)
      (BitVec.ofNat 32 (b.val * 2 ^ 24 + a.val * 2 ^ 16 + d.val * 2 ^ 8 + 0x11)) 0xE0E0E000 ∧
    ∀ s : State,
      (¬(BaseLegal s d ∧ BaseLegal s a ∧ BaseLegal s b) → Raises .slotRange (.vadd d a b) s) ∧
      (BaseLegal s d → BaseLegal s a → BaseLegal s b →
        ((∃ i < s.k, s.tag (vecElem a i) ≠ s.tag (vecElem b i)) → Raises .domain (.vadd d a b) s) ∧
        ((∀ i < s.k, s.tag (vecElem a i) = s.tag (vecElem b i)) → Accepted (.vadd d a b) s ∧
          ∃ t, exec (.vadd d a b) s = .next t ∧ FramedBy (vecSlots s d) s t ∧
            ∀ i < s.k, t.tag (vecElem d i) = s.tag (vecElem a i) ∧
              (Canonical s → ∀ j < 256, coeffAt (t.slot (vecElem d i)) j =
                (coeffAt (s.slot (vecElem a i)) j + coeffAt (s.slot (vecElem b i)) j) % 3329)))

/-- 44_vector.md R182. -/
def Obligations.VsubRule : Prop :=
  ∀ d a b : Slot,
    IssuedLikeEveryCommand (.vsub d a b)
      (BitVec.ofNat 32 (b.val * 2 ^ 24 + a.val * 2 ^ 16 + d.val * 2 ^ 8 + 0x12)) 0xE0E0E000 ∧
    ∀ s : State,
      (¬(BaseLegal s d ∧ BaseLegal s a ∧ BaseLegal s b) → Raises .slotRange (.vsub d a b) s) ∧
      (BaseLegal s d → BaseLegal s a → BaseLegal s b →
        ((∃ i < s.k, s.tag (vecElem a i) ≠ s.tag (vecElem b i)) → Raises .domain (.vsub d a b) s) ∧
        ((∀ i < s.k, s.tag (vecElem a i) = s.tag (vecElem b i)) → Accepted (.vsub d a b) s ∧
          ∃ t, exec (.vsub d a b) s = .next t ∧ FramedBy (vecSlots s d) s t ∧
            ∀ i < s.k, t.tag (vecElem d i) = s.tag (vecElem a i) ∧
              (Canonical s → ∀ j < 256, (coeffAt (t.slot (vecElem d i)) j : ℤ) =
                ((coeffAt (s.slot (vecElem a i)) j : ℤ) - coeffAt (s.slot (vecElem b i)) j) % 3329)))

/-- 44_vector.md R183. -/
def Obligations.VnttRule : Prop :=
  ∀ d a : Slot,
    IssuedLikeEveryCommand (.vntt d a) (BitVec.ofNat 32 (a.val * 2 ^ 16 + d.val * 2 ^ 8 + 0x13)) 0xFFE0E000 ∧
    ∀ s : State,
      (¬(BaseLegal s d ∧ BaseLegal s a) → Raises .slotRange (.vntt d a) s) ∧
      (BaseLegal s d → BaseLegal s a →
        ((∃ i < s.k, s.tag (vecElem a i) ≠ .normal) → Raises .domain (.vntt d a) s) ∧
        ((∀ i < s.k, s.tag (vecElem a i) = .normal) → Accepted (.vntt d a) s ∧
          ∃ t, exec (.vntt d a) s = .next t ∧ FramedBy (vecSlots s d) s t ∧
            ∀ i < s.k, t.tag (vecElem d i) = .ntt ∧ t.slot (vecElem d i) = ntt (s.slot (vecElem a i))))

/-- 44_vector.md R184. -/
def Obligations.VinttRule : Prop :=
  ∀ d a : Slot,
    IssuedLikeEveryCommand (.vintt d a) (BitVec.ofNat 32 (a.val * 2 ^ 16 + d.val * 2 ^ 8 + 0x14)) 0xFFE0E000 ∧
    ∀ s : State,
      (¬(BaseLegal s d ∧ BaseLegal s a) → Raises .slotRange (.vintt d a) s) ∧
      (BaseLegal s d → BaseLegal s a →
        ((∃ i < s.k, s.tag (vecElem a i) ≠ .ntt) → Raises .domain (.vintt d a) s) ∧
        ((∀ i < s.k, s.tag (vecElem a i) = .ntt) → Accepted (.vintt d a) s ∧
          ∃ t, exec (.vintt d a) s = .next t ∧ FramedBy (vecSlots s d) s t ∧
            ∀ i < s.k, t.tag (vecElem d i) = .normal ∧ t.slot (vecElem d i) = intt (s.slot (vecElem a i))))

/-- 44_vector.md R185. -/
def Obligations.VpmulRule : Prop :=
  ∀ d a b : Slot,
    IssuedLikeEveryCommand (.vpmul d a b)
      (BitVec.ofNat 32 (b.val * 2 ^ 24 + a.val * 2 ^ 16 + d.val * 2 ^ 8 + 0x15)) 0xE0E0E000 ∧
    ∀ s : State,
      (¬(BaseLegal s d ∧ BaseLegal s a ∧ BaseLegal s b) → Raises .slotRange (.vpmul d a b) s) ∧
      (BaseLegal s d → BaseLegal s a → BaseLegal s b →
        ((∃ i < s.k, ¬(s.tag (vecElem a i) = .ntt ∧ s.tag (vecElem b i) = .ntt)) →
          Raises .domain (.vpmul d a b) s) ∧
        ((∀ i < s.k, s.tag (vecElem a i) = .ntt ∧ s.tag (vecElem b i) = .ntt) → Accepted (.vpmul d a b) s ∧
          ∃ t, exec (.vpmul d a b) s = .next t ∧ FramedBy (vecSlots s d) s t ∧
            ∀ i < s.k, t.tag (vecElem d i) = .ntt ∧
              (Canonical s → ∀ j < 256, coeffAt (t.slot (vecElem d i)) j =
                baseMulCoeff (s.slot (vecElem a i)) (s.slot (vecElem b i)) j)))

/-- 44_vector.md R186. RD is a single slot and is never range-checked. -/
def Obligations.VdotRule : Prop :=
  ∀ d a b : Slot,
    IssuedLikeEveryCommand (.vdot d a b)
      (BitVec.ofNat 32 (b.val * 2 ^ 24 + a.val * 2 ^ 16 + d.val * 2 ^ 8 + 0x16)) 0xE0E0E000 ∧
    ∀ s : State,
      (¬(BaseLegal s a ∧ BaseLegal s b) → Raises .slotRange (.vdot d a b) s) ∧
      (BaseLegal s a → BaseLegal s b →
        ((∃ i < s.k, ¬(s.tag (vecElem a i) = .ntt ∧ s.tag (vecElem b i) = .ntt)) →
          Raises .domain (.vdot d a b) s) ∧
        ((∀ i < s.k, s.tag (vecElem a i) = .ntt ∧ s.tag (vecElem b i) = .ntt) → Accepted (.vdot d a b) s ∧
          ∃ t, exec (.vdot d a b) s = .next t ∧ FramedBy [d] s t ∧ t.tag d = .ntt ∧
            (Canonical s → ∀ j < 256, coeffAt (t.slot d) j =
              (∑ i ∈ Finset.range s.k, baseMulCoeff (s.slot (vecElem a i)) (s.slot (vecElem b i)) j) % 3329)))

/-- Clearing an NTT-tagged accumulator and then K PMACs give the very state VDOT gives, when the destination lies in
neither vector (95_test_vectors.md P5; 42_pointwise.md R164; 44_vector.md R186). -/
def Obligations.MacChainEqualsDot : Prop :=
  ∀ (d a b : Slot) (s : State), BaseLegal s a → BaseLegal s b →
    (∀ i < s.k, s.tag (vecElem a i) = .ntt ∧ s.tag (vecElem b i) = .ntt) →
    d ∉ vecSlots s a → d ∉ vecSlots s b →
    ∃ u : Nat → State,
      exec (.pzero d .ntt) s = .next (u 0) ∧
      (∀ i < s.k, exec (.pmac d (vecElem a i) (vecElem b i)) (u i) = .next (u (i + 1))) ∧
      exec (.vdot d a b) s = .next (u s.k)

/-! ### The step -/

/-- 10_state.md R40: on the engine's turn, a pending word that decodes to a command runs that command, clears PEND.valid
and sets DONE; a pending zeroization zeroes S and T and clears CLR without setting DONE; with neither pending the turn
changes nothing. With no event waiting it is the engine's turn (log 3). -/
def Obligations.StepRunsPendingCommand : Prop :=
  ∀ (s s' : State) (rest : List Event),
    (s.events = .engine :: rest ∨ s.events = [] ∧ rest = []) → s' = { s with events := rest } → s.rst = false →
    (∀ i t, s.pend.valid = true → decode s.pend.word = .command i → exec i s' = .next t →
      step s = .next { t with pend := { valid := false, word := t.pend.word }, done := true }) ∧
    (s.pend.valid = false → s.clr = true → step s = .next (zeroized s')) ∧
    (s.pend.valid = false → s.clr = false → step s = .next s')

/-- The step takes the events in their order, one whole access at a time (20_memory.md R65, R71; the event list is the
model's, log 3), and an access outside the window is not seen (R62). -/
def Obligations.StepTakesEventsInOrder : Prop :=
  ∀ (s : State) (rest : List Event) (a : Access),
    (s.events = .access a :: rest →
      ∃ t, step s = .next t ∧ t.events = rest ∧ t = State.hostAccess { s with events := rest } a) ∧
    (∀ addr size v, addr < s.build.base ∨ s.build.base + 4096 ≤ addr →
      (a = .read addr size ∨ a = .write addr size v) → s.events = .access a :: rest →
      step s = .next { s with events := rest })

/-! ### Errors -/

/-- 60_exceptions.md R224: every outcome of a CMD write, in the order of its checks. -/
def Obligations.CmdWriteGate : Prop :=
  ∀ (s : State) (w : Word), s.rst = false →
    ∃ t, HostWrites s 0x00C w t ∧
      (s.err = true → t = s) ∧
      (s.err = false → s.busy = true → RaisedFrom .cmdBusy w s t) ∧
      (s.err = false → s.busy = false →
        (decode w = .illegal → RaisedFrom .illegalOpcode w s t) ∧
        (decode w = .reserved → RaisedFrom .reservedNonzero w s t) ∧
        ∀ i, decode w = .command i →
          (rangeOk s.k i = false → RaisedFrom .slotRange w s t) ∧
          (rangeOk s.k i = true → domainOk s i = false → RaisedFrom .domain w s t) ∧
          (rangeOk s.k i = true → domainOk s i = true →
            t = { s with lastCmd := w, done := false, pend := { valid := true, word := w } }))

/-- 60_exceptions.md R223: the first error wins, and a record is cleared only by a write of 1 to STATUS bit 2, by a soft
reset (70_reset_and_hazards.md R261) or by a change of RST (R260). -/
def Obligations.RecordFirstErrorWins : Prop :=
  (∀ (s : State) (code : ErrCode) (info : Word),
    (s.err = false → s.record code info = { s with err := true, errCode := code, errInfo := info }) ∧
    (s.err = true → s.record code info = s)) ∧
  ∀ s t : State, step s = .next t → s.err = true →
    (t.err = true ∧ t.errCode = s.errCode ∧ t.errInfo = s.errInfo) ∨
    (∃ rest, s.events = .rst (!s.rst) :: rest) ∨
    ∃ off v rest, s.events = .access (.write (s.build.base + off) 4 v) :: rest ∧
      (off = 0x008 ∧ v.getLsbD 2 = true ∨ off = 0x004 ∧ v.getLsbD 1 = true)

/-- 60_exceptions.md R231 and the W1C bits of 10_state.md R32: a STATUS write. It retries nothing; after it a CMD write
is examined again; until it a further error is not recorded. -/
def Obligations.StatusWriteClears : Prop :=
  ∀ (s : State) (v : Word), s.rst = false →
    ∃ t, HostWrites s 0x008 v t ∧
      t = { s with
        done := if v.getLsbD 1 then false else s.done
        err := if v.getLsbD 2 then false else s.err
        errCode := if v.getLsbD 2 then .none else s.errCode
        errInfo := if v.getLsbD 2 then 0 else s.errInfo } ∧
      (s.err = true → ∀ code info, s.record code info = s) ∧
      (v.getLsbD 2 = true → s.busy = false → ∀ i, rangeOk s.k i = true → domainOk s i = true →
        ∃ u, HostWrites t 0x00C (encode i) u ∧ u.pend = { valid := true, word := encode i })

/-- 60_exceptions.md R220: an error is only ever recorded by a write to CMD (a CmdError code) or to WIN or WINSEL (a
WinError code); no engine step, read or other write records one. -/
def Obligations.ErrorsOnlyFromCmdAndWindowWrites : Prop :=
  ∀ s t : State, Inv s → step s = .next t → s.err = false → t.err = true →
    ∃ off v rest, s.events = .access (.write (s.build.base + off) 4 v) :: rest ∧
      (off = 0x00C ∧ t.errInfo = v ∧
          t.errCode ∈ [.illegalOpcode, .reservedNonzero, .slotRange, .domain, .cmdBusy] ∨
        (off = 0x010 ∨ 0x400 ≤ off ∧ off ≤ 0x7FC ∧ off % 4 = 0) ∧ t.errCode ∈ [.winRange, .winBusy])

/-- 60_exceptions.md R239: whether a CMD write raises an error depends only on the word, the tags, BUSY and ERR (and the
build), and no write's effect outside the slot file depends on a coefficient. -/
def Obligations.ErrorsIgnoreCoefficients : Prop :=
  (∀ (s s' : State) (w : Word),
    s.build = s'.build → s.tags = s'.tags → s.busy = s'.busy → s.err = false → s'.err = false →
    (s.onCmdWrite w).err = (s'.onCmdWrite w).err ∧
      ((s.onCmdWrite w).err = true → (s.onCmdWrite w).errCode = (s'.onCmdWrite w).errCode ∧
        (s.onCmdWrite w).errInfo = (s'.onCmdWrite w).errInfo)) ∧
  ∀ (s : State) (p : Vector RingElem 32) (addr size : Nat) (v : Word),
    ∃ t t', Takes s (.access (.write addr size v)) t ∧
      Takes { s with slots := p } (.access (.write addr size v)) t' ∧ t' = { t with slots := t'.slots }

/-! ### The register window -/

/-- 20_memory.md R66: a window write. -/
def Obligations.WindowWrite : Prop :=
  ∀ (s : State) (j : Fin 256) (v : Word), s.rst = false →
    ∃ t, HostWrites s (0x400 + 4 * j.val) v t ∧
      (s.busy = true → RaisedFrom .winBusy (BitVec.ofNat 32 (0x400 + 4 * j.val)) s t) ∧
      (s.busy = false → 3329 ≤ v.toNat →
        RaisedFrom .winRange (BitVec.ofNat 32 (s.winsel.val * 2 ^ 16 + (0x400 + 4 * j.val))) s t) ∧
      (s.busy = false → v.toNat < 3329 →
        t = { s with slots := t.slots } ∧
        (∀ e : Slot, e ≠ s.winsel → t.slot e = s.slot e) ∧
        (∀ i : Fin 256, i ≠ j → (t.slot s.winsel)[i] = (s.slot s.winsel)[i]) ∧
        ((t.slot s.winsel)[j]).toNat = v.toNat)

/-- 20_memory.md R67: a window read; TAGS has the same BUSY rule. -/
def Obligations.WindowRead : Prop :=
  ∀ (s : State) (j : Fin 256), s.rst = false →
    ∃ v, HostReads s (0x400 + 4 * j.val) v ∧
      (s.busy = true → v = 0 ∧ HostReads s 0x014 0) ∧ (s.busy = false → v.toNat = ((s.slot s.winsel)[j]).toNat)

/-- 10_state.md R34: WINSEL reads its slot number at all times; a write sets it, or is dropped with WIN_BUSY. -/
def Obligations.WinselAccess : Prop :=
  ∀ (s : State) (v : Word), s.rst = false →
    HostReads s 0x010 (BitVec.ofNat 32 s.winsel.val) ∧
    ∃ t, HostWrites s 0x010 v t ∧
      (s.busy = true → RaisedFrom .winBusy 0x00000010 s t) ∧
      (s.busy = false → t = { s with winsel := t.winsel } ∧ t.winsel.val = v.toNat % 32)

/-- 10_state.md R31 and 70_reset_and_hazards.md R261: a CTRL write sets IRQ_EN, or with SRST = 1 performs the soft reset
in any state; CTRL reads IRQ_EN alone. -/
def Obligations.CtrlWriteAndSoftReset : Prop :=
  ∀ (s : State) (v : Word), s.rst = false →
    HostReads s 0x004 (if s.irqEn then 1 else 0) ∧
    ∃ t, HostWrites s 0x004 v t ∧
      (v.getLsbD 1 = false → t = { s with irqEn := v.getLsbD 0 }) ∧
      (v.getLsbD 1 = true → ResetFrom s t ∧ t.rst = false ∧ Takes t .engine (zeroized t))

/-- 70_reset_and_hazards.md R260 with the values of 10_state.md R42: while RST is asserted every access is ignored and
reads return 0; on release every register has its reset value, no command is pending, and the engine's next turn
zeroizes. -/
def Obligations.HardReset : Prop :=
  ∀ s : State, s.rst = false →
    ∃ t u, Takes s (.rst true) t ∧ t.rst = true ∧
      (∀ off < 4096, ∀ (size : Nat) (v : Word),
        Takes t (.access (.write (t.build.base + off) size v)) t ∧
        Takes t (.access (.read (t.build.base + off) size)) { t with rdata := 0 }) ∧
      Takes t (.rst false) u ∧ ResetFrom s u ∧ u.rst = false ∧ Takes u .engine (zeroized u)

/-- No read has a side effect, and reading twice gives the same value (20_memory.md R68). -/
def Obligations.ReadsHaveNoSideEffect : Prop :=
  ∀ (s : State) (addr size : Nat), ∃ v,
    Takes s (.access (.read addr size)) { s with rdata := v } ∧
    Takes { s with rdata := v } (.access (.read addr size)) { s with rdata := v }

/-- 20_memory.md R64: an access that is not 32 bits wide or not aligned writes nothing and reads 0. -/
def Obligations.NonWordAccessIgnored : Prop :=
  ∀ (s : State) (off size : Nat) (v : Word), off < 4096 → size ≠ 4 ∨ off % 4 ≠ 0 →
    Takes s (.access (.write (s.build.base + off) size v)) s ∧
    Takes s (.access (.read (s.build.base + off) size)) { s with rdata := 0 }

/-- 10_state.md R27: a reserved offset reads 0 and ignores writes, and so do the reserved fields of CTRL, STATUS and
WINSEL (R31, R32, R34). A row is an offset, its reserved bits, and its reserved or read-only bits. -/
def Obligations.ReservedOffsets : Prop :=
  (∀ (s : State) (off : Nat) (v : Word), s.rst = false → off % 4 = 0 →
    (0x01C ≤ off ∧ off ≤ 0x3FC ∨ 0x800 ≤ off ∧ off ≤ 0xFFC) → HostReads s off 0 ∧ HostWrites s off v s) ∧
  ∀ (s : State) (v v' : Word), s.rst = false →
    ∀ row ∈ ([(0x004, 0xFFFFFFFC, 0xFFFFFFFC), (0x008, 0xFFFFFF08, 0xFFFFFFF9), (0x010, 0xFFFFFFE0, 0xFFFFFFE0)] :
        List (Nat × Word × Word)),
      (∃ r, HostReads s row.1 r ∧ r &&& row.2.1 = 0) ∧
      (v &&& ~~~row.2.2 = v' &&& ~~~row.2.2 → ∀ t, HostWrites s row.1 v t → HostWrites s row.1 v' t)

/-- ID (10_state.md R30), TAGS (R35) and the read side of STATUS, CMD and ERRINFO (R32, R33, R36), ERRCODE with the
values of 60_exceptions.md R221; writes to ID, TAGS and ERRINFO are ignored. -/
def Obligations.RegisterReadValues : Prop :=
  ∀ s : State, s.rst = false →
    HostReads s 0x000
      (match s.build.rank with | .two => 0x15280D01 | .three => 0x15380D01 | .four => 0x15480D01) ∧
    HostReads s 0x00C s.lastCmd ∧ HostReads s 0x018 s.errInfo ∧
    (∃ v, HostReads s 0x008 v ∧ v.getLsbD 0 = s.busy ∧ v.getLsbD 1 = s.done ∧ v.getLsbD 2 = s.err ∧
      v.getLsbD 3 = false ∧ v.extractLsb' 8 24 = 0 ∧
      v.extractLsb' 4 4 =
        (match s.errCode with
          | .none => 0x0 | .illegalOpcode => 0x1 | .reservedNonzero => 0x2 | .slotRange => 0x3
          | .domain => 0x4 | .cmdBusy => 0x5 | .winRange => 0x6 | .winBusy => 0x7)) ∧
    (∃ v, HostReads s 0x014 v ∧ (s.busy = true → v = 0) ∧
      (s.busy = false → ∀ e : Slot, v.getLsbD e.val = true ↔ s.tag e = .ntt)) ∧
    ∀ off ∈ [0x000, 0x014, 0x018], ∀ v, HostWrites s off v s

/-- 10_state.md R39: the level of IRQ. -/
def Obligations.IrqLevel : Prop :=
  ∀ s : State, s.irq = true ↔ s.irqEn = true ∧ (s.done = true ∨ s.err = true)

/-- The BUSY hazard (70_reset_and_hazards.md R270): what a host access does while BUSY = 1, and that acceptance and
reset set BUSY. -/
def Obligations.BusyHazard : Prop :=
  (∀ (s : State) (w : Word), (s.accept w).busy = true ∧ s.resetEvent.busy = true) ∧
  ∀ (s : State) (j : Fin 256) (v : Word), s.rst = false → s.busy = true →
    HostReads s (0x400 + 4 * j.val) 0 ∧ HostReads s 0x014 0 ∧
    (∃ t, HostWrites s (0x400 + 4 * j.val) v t ∧
      RaisedFrom .winBusy (BitVec.ofNat 32 (0x400 + 4 * j.val)) s t) ∧
    (∃ t, HostWrites s 0x010 v t ∧ RaisedFrom .winBusy 0x00000010 s t) ∧
    (∃ t, HostWrites s 0x00C v t ∧ (s.err = true → t = s) ∧ (s.err = false → RaisedFrom .cmdBusy v s t)) ∧
    HostReads s 0x00C s.lastCmd ∧ HostReads s 0x010 (BitVec.ofNat 32 s.winsel.val) ∧ HostReads s 0x018 s.errInfo ∧
    HostWrites s 0x004 1 { s with irqEn := true } ∧ HostWrites s 0x008 2 { s with done := false }

/-- While BUSY = 1 no host access can tell one slot file and tag file from another (10_state.md R42;
93_implementation_defined.md U8): two such states answer every access alike, but for S and T themselves. -/
def Obligations.BusyHidesSlotFile : Prop :=
  ∀ (s : State) (p : Vector RingElem 32) (q : Vector Domain 32) (a : Access), s.busy = true →
    ∃ t t', Takes s (.access a) t ∧ Takes { s with slots := p, tags := q } (.access a) t' ∧
      t' = { t with slots := t'.slots, tags := t'.tags }

/-! ### Invariants of a run -/

/-- The invariant holds just after reset (10_state.md R38, R41, R42; S and T there are the model's choice, log 4). -/
def Obligations.InvAtReset : Prop := Inv State.reset

/-- Every step keeps the invariant: canonical coefficients (10_state.md R41), a pending command that passed its checks
(60_exceptions.md R220), at most one pending (10_state.md R38), a coherent error record (R32, R36). -/
def Obligations.InvKeptByStep : Prop := ∀ s t : State, Inv s → step s = .next t → Inv t

/-- From every state of the invariant the machine goes on: no fault and no refusal is reached (60_exceptions.md R220;
the fault is the model's, log 7). -/
def Obligations.StepNeverStops : Prop := ∀ s : State, Inv s → ∃ t, step s = .next t

/-- No step changes K or BASE: they are fixed when the block is built (00_scope.md R9; 20_memory.md R62). -/
def Obligations.BuildNeverChanges : Prop := ∀ s t : State, step s = .next t → t.build = s.build

/-- A soft reset makes a run independent of whether the engine had already performed the pending command: both schedules
end in the same state after zeroization (95_test_vectors.md P4; 70_reset_and_hazards.md R261). -/
def Obligations.SoftResetErasesPending : Prop :=
  ∀ s : State, Inv s → s.rst = false →
    ∃ s1 s2 s2' z, Takes s .engine s1 ∧ HostWrites s1 0x004 2 s2 ∧ Takes s2 .engine z ∧
      HostWrites s 0x004 2 s2' ∧ Takes s2' .engine z
end

