-- ==== Sys2Proof/Laws/Decode.lean ====
section
/-! SUPPORT. The fields of a packed command word, each read back once (30_encoding.md R91, R98). -/

namespace Sys2Proof.Laws

/-- The number of a packed word is its formula: nothing wraps (30_encoding.md R91). -/
theorem toNat_packWord (rb ra rd opc : Nat) (hb : rb < 32) (ha : ra < 32) (hd : rd < 32) (ho : opc < 256) :
    (packWord rb ra rd opc).toNat = rb * 16777216 + ra * 65536 + rd * 256 + opc := by
  rw [packWord, BitVec.toNat_ofNat]; omega

theorem opcodeOf_packWord (rb ra rd opc : Nat) (hb : rb < 32) (ha : ra < 32) (hd : rd < 32) (ho : opc < 256) :
    opcodeOf (packWord rb ra rd opc) = opc := by
  rw [opcodeOf, BitVec.extractLsb'_toNat, toNat_packWord _ _ _ _ hb ha hd ho, Nat.shiftRight_eq_div_pow]; omega

theorem rd_packWord (rb ra rd opc : Nat) (hb : rb < 32) (ha : ra < 32) (hd : rd < 32) (ho : opc < 256) :
    (fieldsOf (packWord rb ra rd opc)).rd.val = rd := by
  show ((packWord rb ra rd opc).extractLsb' 8 5).toNat = rd
  rw [BitVec.extractLsb'_toNat, toNat_packWord _ _ _ _ hb ha hd ho, Nat.shiftRight_eq_div_pow]; omega

theorem ra_packWord (rb ra rd opc : Nat) (hb : rb < 32) (ha : ra < 32) (hd : rd < 32) (ho : opc < 256) :
    (fieldsOf (packWord rb ra rd opc)).ra.val = ra := by
  show ((packWord rb ra rd opc).extractLsb' 16 5).toNat = ra
  rw [BitVec.extractLsb'_toNat, toNat_packWord _ _ _ _ hb ha hd ho, Nat.shiftRight_eq_div_pow]; omega

theorem rb_packWord (rb ra rd opc : Nat) (hb : rb < 32) (ha : ra < 32) (hd : rd < 32) (ho : opc < 256) :
    (fieldsOf (packWord rb ra rd opc)).rb.val = rb := by
  show ((packWord rb ra rd opc).extractLsb' 24 5).toNat = rb
  rw [BitVec.extractLsb'_toNat, toNat_packWord _ _ _ _ hb ha hd ho, Nat.shiftRight_eq_div_pow]; omega

/-- The bytes a bus presents make up the word again (20_memory.md R63). -/
theorem wordOfBytes_byteOf (w : Word) : wordOfBytes (byteOf w 0) (byteOf w 1) (byteOf w 2) (byteOf w 3) = w := by
  apply BitVec.eq_of_toNat_eq
  simp only [wordOfBytes, byteOf, BitVec.toNat_append, BitVec.extractLsb'_toNat, Nat.shiftRight_eq_div_pow]
  have h := w.isLt
  have hor (x y k : Nat) (hy : y < 2 ^ k) : x <<< k ||| y = x * 2 ^ k + y := by
    rw [Nat.shiftLeft_eq, Nat.mul_comm, Nat.two_pow_add_eq_or_of_lt hy]
  rw [hor _ _ 8 (by omega), hor _ _ 8 (by omega), hor _ _ 8 (by omega)]
  omega

end Sys2Proof.Laws
end

