-- ==== Sys2Proof/Laws/State.lean ====
section
/-! SUPPORT. One lemma per field per update of the state, each true by rfl, and the same for the recording of an error
by its two cases. -/

namespace Sys2Proof.Laws

open Sys2Proof.Machine

@[simp] theorem setSlot_build (s : State) (e : Slot) (p : RingElem) : (s.setSlot e p).build = s.build := rfl
@[simp] theorem setSlot_slots (s : State) (e : Slot) (p : RingElem) : (s.setSlot e p).slots = s.slots.set e p := rfl
@[simp] theorem setSlot_tags (s : State) (e : Slot) (p : RingElem) : (s.setSlot e p).tags = s.tags := rfl
@[simp] theorem setSlot_irqEn (s : State) (e : Slot) (p : RingElem) : (s.setSlot e p).irqEn = s.irqEn := rfl
@[simp] theorem setSlot_done (s : State) (e : Slot) (p : RingElem) : (s.setSlot e p).done = s.done := rfl
@[simp] theorem setSlot_err (s : State) (e : Slot) (p : RingElem) : (s.setSlot e p).err = s.err := rfl
@[simp] theorem setSlot_errCode (s : State) (e : Slot) (p : RingElem) : (s.setSlot e p).errCode = s.errCode := rfl
@[simp] theorem setSlot_errInfo (s : State) (e : Slot) (p : RingElem) : (s.setSlot e p).errInfo = s.errInfo := rfl
@[simp] theorem setSlot_lastCmd (s : State) (e : Slot) (p : RingElem) : (s.setSlot e p).lastCmd = s.lastCmd := rfl
@[simp] theorem setSlot_winsel (s : State) (e : Slot) (p : RingElem) : (s.setSlot e p).winsel = s.winsel := rfl
@[simp] theorem setSlot_pend (s : State) (e : Slot) (p : RingElem) : (s.setSlot e p).pend = s.pend := rfl
@[simp] theorem setSlot_clr (s : State) (e : Slot) (p : RingElem) : (s.setSlot e p).clr = s.clr := rfl
@[simp] theorem setSlot_rst (s : State) (e : Slot) (p : RingElem) : (s.setSlot e p).rst = s.rst := rfl
@[simp] theorem setSlot_rdata (s : State) (e : Slot) (p : RingElem) : (s.setSlot e p).rdata = s.rdata := rfl
@[simp] theorem setSlot_resets (s : State) (e : Slot) (p : RingElem) : (s.setSlot e p).resets = s.resets := rfl
@[simp] theorem setSlot_events (s : State) (e : Slot) (p : RingElem) : (s.setSlot e p).events = s.events := rfl

@[simp] theorem setTag_build (s : State) (e : Slot) (t : Domain) : (s.setTag e t).build = s.build := rfl
@[simp] theorem setTag_slots (s : State) (e : Slot) (t : Domain) : (s.setTag e t).slots = s.slots := rfl
@[simp] theorem setTag_tags (s : State) (e : Slot) (t : Domain) : (s.setTag e t).tags = s.tags.set e t := rfl
@[simp] theorem setTag_irqEn (s : State) (e : Slot) (t : Domain) : (s.setTag e t).irqEn = s.irqEn := rfl
@[simp] theorem setTag_done (s : State) (e : Slot) (t : Domain) : (s.setTag e t).done = s.done := rfl
@[simp] theorem setTag_err (s : State) (e : Slot) (t : Domain) : (s.setTag e t).err = s.err := rfl
@[simp] theorem setTag_errCode (s : State) (e : Slot) (t : Domain) : (s.setTag e t).errCode = s.errCode := rfl
@[simp] theorem setTag_errInfo (s : State) (e : Slot) (t : Domain) : (s.setTag e t).errInfo = s.errInfo := rfl
@[simp] theorem setTag_lastCmd (s : State) (e : Slot) (t : Domain) : (s.setTag e t).lastCmd = s.lastCmd := rfl
@[simp] theorem setTag_winsel (s : State) (e : Slot) (t : Domain) : (s.setTag e t).winsel = s.winsel := rfl
@[simp] theorem setTag_pend (s : State) (e : Slot) (t : Domain) : (s.setTag e t).pend = s.pend := rfl
@[simp] theorem setTag_clr (s : State) (e : Slot) (t : Domain) : (s.setTag e t).clr = s.clr := rfl
@[simp] theorem setTag_rst (s : State) (e : Slot) (t : Domain) : (s.setTag e t).rst = s.rst := rfl
@[simp] theorem setTag_rdata (s : State) (e : Slot) (t : Domain) : (s.setTag e t).rdata = s.rdata := rfl
@[simp] theorem setTag_resets (s : State) (e : Slot) (t : Domain) : (s.setTag e t).resets = s.resets := rfl
@[simp] theorem setTag_events (s : State) (e : Slot) (t : Domain) : (s.setTag e t).events = s.events := rfl

@[simp] theorem writeSlot_build (s : State) (e : Slot) (p : RingElem) (t : Domain) :
    (s.writeSlot e p t).build = s.build := rfl
@[simp] theorem writeSlot_slots (s : State) (e : Slot) (p : RingElem) (t : Domain) :
    (s.writeSlot e p t).slots = s.slots.set e p := rfl
@[simp] theorem writeSlot_tags (s : State) (e : Slot) (p : RingElem) (t : Domain) :
    (s.writeSlot e p t).tags = s.tags.set e t := rfl
@[simp] theorem writeSlot_irqEn (s : State) (e : Slot) (p : RingElem) (t : Domain) :
    (s.writeSlot e p t).irqEn = s.irqEn := rfl
@[simp] theorem writeSlot_done (s : State) (e : Slot) (p : RingElem) (t : Domain) :
    (s.writeSlot e p t).done = s.done := rfl
@[simp] theorem writeSlot_err (s : State) (e : Slot) (p : RingElem) (t : Domain) :
    (s.writeSlot e p t).err = s.err := rfl
@[simp] theorem writeSlot_errCode (s : State) (e : Slot) (p : RingElem) (t : Domain) :
    (s.writeSlot e p t).errCode = s.errCode := rfl
@[simp] theorem writeSlot_errInfo (s : State) (e : Slot) (p : RingElem) (t : Domain) :
    (s.writeSlot e p t).errInfo = s.errInfo := rfl
@[simp] theorem writeSlot_lastCmd (s : State) (e : Slot) (p : RingElem) (t : Domain) :
    (s.writeSlot e p t).lastCmd = s.lastCmd := rfl
@[simp] theorem writeSlot_winsel (s : State) (e : Slot) (p : RingElem) (t : Domain) :
    (s.writeSlot e p t).winsel = s.winsel := rfl
@[simp] theorem writeSlot_pend (s : State) (e : Slot) (p : RingElem) (t : Domain) :
    (s.writeSlot e p t).pend = s.pend := rfl
@[simp] theorem writeSlot_clr (s : State) (e : Slot) (p : RingElem) (t : Domain) :
    (s.writeSlot e p t).clr = s.clr := rfl
@[simp] theorem writeSlot_rst (s : State) (e : Slot) (p : RingElem) (t : Domain) :
    (s.writeSlot e p t).rst = s.rst := rfl
@[simp] theorem writeSlot_rdata (s : State) (e : Slot) (p : RingElem) (t : Domain) :
    (s.writeSlot e p t).rdata = s.rdata := rfl
@[simp] theorem writeSlot_resets (s : State) (e : Slot) (p : RingElem) (t : Domain) :
    (s.writeSlot e p t).resets = s.resets := rfl
@[simp] theorem writeSlot_events (s : State) (e : Slot) (p : RingElem) (t : Domain) :
    (s.writeSlot e p t).events = s.events := rfl

@[simp] theorem clearError_build (s : State) : (s.clearError).build = s.build := rfl
@[simp] theorem clearError_slots (s : State) : (s.clearError).slots = s.slots := rfl
@[simp] theorem clearError_tags (s : State) : (s.clearError).tags = s.tags := rfl
@[simp] theorem clearError_irqEn (s : State) : (s.clearError).irqEn = s.irqEn := rfl
@[simp] theorem clearError_done (s : State) : (s.clearError).done = s.done := rfl
@[simp] theorem clearError_err (s : State) : (s.clearError).err = false := rfl
@[simp] theorem clearError_errCode (s : State) : (s.clearError).errCode = .none := rfl
@[simp] theorem clearError_errInfo (s : State) : (s.clearError).errInfo = 0 := rfl
@[simp] theorem clearError_lastCmd (s : State) : (s.clearError).lastCmd = s.lastCmd := rfl
@[simp] theorem clearError_winsel (s : State) : (s.clearError).winsel = s.winsel := rfl
@[simp] theorem clearError_pend (s : State) : (s.clearError).pend = s.pend := rfl
@[simp] theorem clearError_clr (s : State) : (s.clearError).clr = s.clr := rfl
@[simp] theorem clearError_rst (s : State) : (s.clearError).rst = s.rst := rfl
@[simp] theorem clearError_rdata (s : State) : (s.clearError).rdata = s.rdata := rfl
@[simp] theorem clearError_resets (s : State) : (s.clearError).resets = s.resets := rfl
@[simp] theorem clearError_events (s : State) : (s.clearError).events = s.events := rfl

@[simp] theorem accept_build (s : State) (w : Word) : (s.accept w).build = s.build := rfl
@[simp] theorem accept_slots (s : State) (w : Word) : (s.accept w).slots = s.slots := rfl
@[simp] theorem accept_tags (s : State) (w : Word) : (s.accept w).tags = s.tags := rfl
@[simp] theorem accept_irqEn (s : State) (w : Word) : (s.accept w).irqEn = s.irqEn := rfl
@[simp] theorem accept_done (s : State) (w : Word) : (s.accept w).done = false := rfl
@[simp] theorem accept_err (s : State) (w : Word) : (s.accept w).err = s.err := rfl
@[simp] theorem accept_errCode (s : State) (w : Word) : (s.accept w).errCode = s.errCode := rfl
@[simp] theorem accept_errInfo (s : State) (w : Word) : (s.accept w).errInfo = s.errInfo := rfl
@[simp] theorem accept_lastCmd (s : State) (w : Word) : (s.accept w).lastCmd = w := rfl
@[simp] theorem accept_winsel (s : State) (w : Word) : (s.accept w).winsel = s.winsel := rfl
@[simp] theorem accept_pend (s : State) (w : Word) : (s.accept w).pend = ⟨true, w⟩ := rfl
@[simp] theorem accept_clr (s : State) (w : Word) : (s.accept w).clr = s.clr := rfl
@[simp] theorem accept_rst (s : State) (w : Word) : (s.accept w).rst = s.rst := rfl
@[simp] theorem accept_rdata (s : State) (w : Word) : (s.accept w).rdata = s.rdata := rfl
@[simp] theorem accept_resets (s : State) (w : Word) : (s.accept w).resets = s.resets := rfl
@[simp] theorem accept_events (s : State) (w : Word) : (s.accept w).events = s.events := rfl

@[simp] theorem complete_build (s : State) : (s.complete).build = s.build := rfl
@[simp] theorem complete_slots (s : State) : (s.complete).slots = s.slots := rfl
@[simp] theorem complete_tags (s : State) : (s.complete).tags = s.tags := rfl
@[simp] theorem complete_irqEn (s : State) : (s.complete).irqEn = s.irqEn := rfl
@[simp] theorem complete_done (s : State) : (s.complete).done = true := rfl
@[simp] theorem complete_err (s : State) : (s.complete).err = s.err := rfl
@[simp] theorem complete_errCode (s : State) : (s.complete).errCode = s.errCode := rfl
@[simp] theorem complete_errInfo (s : State) : (s.complete).errInfo = s.errInfo := rfl
@[simp] theorem complete_lastCmd (s : State) : (s.complete).lastCmd = s.lastCmd := rfl
@[simp] theorem complete_winsel (s : State) : (s.complete).winsel = s.winsel := rfl
@[simp] theorem complete_pend (s : State) : (s.complete).pend = ⟨false, s.pend.word⟩ := rfl
@[simp] theorem complete_clr (s : State) : (s.complete).clr = s.clr := rfl
@[simp] theorem complete_rst (s : State) : (s.complete).rst = s.rst := rfl
@[simp] theorem complete_rdata (s : State) : (s.complete).rdata = s.rdata := rfl
@[simp] theorem complete_resets (s : State) : (s.complete).resets = s.resets := rfl
@[simp] theorem complete_events (s : State) : (s.complete).events = s.events := rfl

@[simp] theorem zeroSlotFile_build (s : State) : (s.zeroSlotFile).build = s.build := rfl
@[simp] theorem zeroSlotFile_slots (s : State) : (s.zeroSlotFile).slots = Vector.replicate 32 ringZero := rfl
@[simp] theorem zeroSlotFile_tags (s : State) : (s.zeroSlotFile).tags = Vector.replicate 32 .normal := rfl
@[simp] theorem zeroSlotFile_irqEn (s : State) : (s.zeroSlotFile).irqEn = s.irqEn := rfl
@[simp] theorem zeroSlotFile_done (s : State) : (s.zeroSlotFile).done = s.done := rfl
@[simp] theorem zeroSlotFile_err (s : State) : (s.zeroSlotFile).err = s.err := rfl
@[simp] theorem zeroSlotFile_errCode (s : State) : (s.zeroSlotFile).errCode = s.errCode := rfl
@[simp] theorem zeroSlotFile_errInfo (s : State) : (s.zeroSlotFile).errInfo = s.errInfo := rfl
@[simp] theorem zeroSlotFile_lastCmd (s : State) : (s.zeroSlotFile).lastCmd = s.lastCmd := rfl
@[simp] theorem zeroSlotFile_winsel (s : State) : (s.zeroSlotFile).winsel = s.winsel := rfl
@[simp] theorem zeroSlotFile_pend (s : State) : (s.zeroSlotFile).pend = s.pend := rfl
@[simp] theorem zeroSlotFile_clr (s : State) : (s.zeroSlotFile).clr = s.clr := rfl
@[simp] theorem zeroSlotFile_rst (s : State) : (s.zeroSlotFile).rst = s.rst := rfl
@[simp] theorem zeroSlotFile_rdata (s : State) : (s.zeroSlotFile).rdata = s.rdata := rfl
@[simp] theorem zeroSlotFile_resets (s : State) : (s.zeroSlotFile).resets = s.resets := rfl
@[simp] theorem zeroSlotFile_events (s : State) : (s.zeroSlotFile).events = s.events := rfl

@[simp] theorem zeroize_build (s : State) : (s.zeroize).build = s.build := rfl
@[simp] theorem zeroize_slots (s : State) : (s.zeroize).slots = Vector.replicate 32 ringZero := rfl
@[simp] theorem zeroize_tags (s : State) : (s.zeroize).tags = Vector.replicate 32 .normal := rfl
@[simp] theorem zeroize_irqEn (s : State) : (s.zeroize).irqEn = s.irqEn := rfl
@[simp] theorem zeroize_done (s : State) : (s.zeroize).done = s.done := rfl
@[simp] theorem zeroize_err (s : State) : (s.zeroize).err = s.err := rfl
@[simp] theorem zeroize_errCode (s : State) : (s.zeroize).errCode = s.errCode := rfl
@[simp] theorem zeroize_errInfo (s : State) : (s.zeroize).errInfo = s.errInfo := rfl
@[simp] theorem zeroize_lastCmd (s : State) : (s.zeroize).lastCmd = s.lastCmd := rfl
@[simp] theorem zeroize_winsel (s : State) : (s.zeroize).winsel = s.winsel := rfl
@[simp] theorem zeroize_pend (s : State) : (s.zeroize).pend = s.pend := rfl
@[simp] theorem zeroize_clr (s : State) : (s.zeroize).clr = false := rfl
@[simp] theorem zeroize_rst (s : State) : (s.zeroize).rst = s.rst := rfl
@[simp] theorem zeroize_rdata (s : State) : (s.zeroize).rdata = s.rdata := rfl
@[simp] theorem zeroize_resets (s : State) : (s.zeroize).resets = s.resets := rfl
@[simp] theorem zeroize_events (s : State) : (s.zeroize).events = s.events := rfl

@[simp] theorem resetEvent_build (s : State) : (s.resetEvent).build = s.build := rfl
@[simp] theorem resetEvent_slots (s : State) : (s.resetEvent).slots = unspecifiedSlots s.resets := rfl
@[simp] theorem resetEvent_tags (s : State) : (s.resetEvent).tags = unspecifiedTags s.resets := rfl
@[simp] theorem resetEvent_irqEn (s : State) : (s.resetEvent).irqEn = false := rfl
@[simp] theorem resetEvent_done (s : State) : (s.resetEvent).done = false := rfl
@[simp] theorem resetEvent_err (s : State) : (s.resetEvent).err = false := rfl
@[simp] theorem resetEvent_errCode (s : State) : (s.resetEvent).errCode = .none := rfl
@[simp] theorem resetEvent_errInfo (s : State) : (s.resetEvent).errInfo = 0 := rfl
@[simp] theorem resetEvent_lastCmd (s : State) : (s.resetEvent).lastCmd = 0 := rfl
@[simp] theorem resetEvent_winsel (s : State) : (s.resetEvent).winsel = 0 := rfl
@[simp] theorem resetEvent_pend (s : State) : (s.resetEvent).pend = ⟨false, 0⟩ := rfl
@[simp] theorem resetEvent_clr (s : State) : (s.resetEvent).clr = true := rfl
@[simp] theorem resetEvent_rst (s : State) : (s.resetEvent).rst = s.rst := rfl
@[simp] theorem resetEvent_rdata (s : State) : (s.resetEvent).rdata = s.rdata := rfl
@[simp] theorem resetEvent_resets (s : State) : (s.resetEvent).resets = s.resets + 1 := rfl
@[simp] theorem resetEvent_events (s : State) : (s.resetEvent).events = s.events := rfl

/-- Recording over a held record changes nothing (60_exceptions.md R223). -/
theorem record_of_err (s : State) (c : ErrCode) (w : Word) (h : s.err = true) : s.record c w = s := by
  simp [State.record, h]

/-- Recording with no record held writes the three fields (60_exceptions.md R223). -/
theorem record_of_no_err (s : State) (c : ErrCode) (w : Word) (h : s.err = false) :
    s.record c w = { s with err := true, errCode := c, errInfo := w } := by
  simp [State.record, h]

@[simp] theorem record_build (s : State) (c : ErrCode) (w : Word) : (s.record c w).build = s.build := by
  unfold State.record; split <;> rfl
@[simp] theorem record_slots (s : State) (c : ErrCode) (w : Word) : (s.record c w).slots = s.slots := by
  unfold State.record; split <;> rfl
@[simp] theorem record_tags (s : State) (c : ErrCode) (w : Word) : (s.record c w).tags = s.tags := by
  unfold State.record; split <;> rfl
@[simp] theorem record_irqEn (s : State) (c : ErrCode) (w : Word) : (s.record c w).irqEn = s.irqEn := by
  unfold State.record; split <;> rfl
@[simp] theorem record_done (s : State) (c : ErrCode) (w : Word) : (s.record c w).done = s.done := by
  unfold State.record; split <;> rfl
@[simp] theorem record_lastCmd (s : State) (c : ErrCode) (w : Word) : (s.record c w).lastCmd = s.lastCmd := by
  unfold State.record; split <;> rfl
@[simp] theorem record_winsel (s : State) (c : ErrCode) (w : Word) : (s.record c w).winsel = s.winsel := by
  unfold State.record; split <;> rfl
@[simp] theorem record_pend (s : State) (c : ErrCode) (w : Word) : (s.record c w).pend = s.pend := by
  unfold State.record; split <;> rfl
@[simp] theorem record_clr (s : State) (c : ErrCode) (w : Word) : (s.record c w).clr = s.clr := by
  unfold State.record; split <;> rfl
@[simp] theorem record_rst (s : State) (c : ErrCode) (w : Word) : (s.record c w).rst = s.rst := by
  unfold State.record; split <;> rfl
@[simp] theorem record_rdata (s : State) (c : ErrCode) (w : Word) : (s.record c w).rdata = s.rdata := by
  unfold State.record; split <;> rfl
@[simp] theorem record_resets (s : State) (c : ErrCode) (w : Word) : (s.record c w).resets = s.resets := by
  unfold State.record; split <;> rfl
@[simp] theorem record_events (s : State) (c : ErrCode) (w : Word) : (s.record c w).events = s.events := by
  unfold State.record; split <;> rfl

/-- After recording, an error is held. -/
@[simp] theorem record_err (s : State) (c : ErrCode) (w : Word) : (s.record c w).err = true := by
  unfold State.record; split <;> simp_all

end Sys2Proof.Laws
end

