-- ==== Sys2Proof/Laws/Slots.lean ====
section
/-! SUPPORT. Reading a slot or a tag after a write, and everything a vector write can do. -/

namespace Sys2Proof.Laws

open Sys2Proof.Machine

@[simp] theorem slot_setSlot_self (s : State) (d : Slot) (p : RingElem) : (s.setSlot d p).slot d = p := by
  simp [State.slot, State.setSlot]

theorem slot_setSlot_ne (s : State) (d e : Slot) (p : RingElem) (h : e ≠ d) : (s.setSlot d p).slot e = s.slot e := by
  have : d.val ≠ e.val := fun h' => h (Fin.ext h'.symm)
  simp [State.slot, State.setSlot, this]

@[simp] theorem tag_setSlot (s : State) (d e : Slot) (p : RingElem) : (s.setSlot d p).tag e = s.tag e := rfl

@[simp] theorem slot_setTag (s : State) (d e : Slot) (t : Domain) : (s.setTag d t).slot e = s.slot e := rfl

@[simp] theorem tag_setTag_self (s : State) (d : Slot) (t : Domain) : (s.setTag d t).tag d = t := by
  simp [State.tag, State.setTag]

theorem tag_setTag_ne (s : State) (d e : Slot) (t : Domain) (h : e ≠ d) : (s.setTag d t).tag e = s.tag e := by
  have : d.val ≠ e.val := fun h' => h (Fin.ext h'.symm)
  simp [State.tag, State.setTag, this]

@[simp] theorem slot_writeSlot_self (s : State) (d : Slot) (p : RingElem) (t : Domain) :
    (s.writeSlot d p t).slot d = p := slot_setSlot_self s d p

@[simp] theorem tag_writeSlot_self (s : State) (d : Slot) (p : RingElem) (t : Domain) :
    (s.writeSlot d p t).tag d = t := tag_setTag_self (s.setSlot d p) d t

theorem slot_writeSlot_ne (s : State) (d e : Slot) (p : RingElem) (t : Domain) (h : e ≠ d) :
    (s.writeSlot d p t).slot e = s.slot e := slot_setSlot_ne s d e p h

theorem tag_writeSlot_ne (s : State) (d e : Slot) (p : RingElem) (t : Domain) (h : e ≠ d) :
    (s.writeSlot d p t).tag e = s.tag e := tag_setTag_ne (s.setSlot d p) d e t h

/-- A slot write touches the slot file and the tag file only. -/
theorem writeSlot_only (s : State) (d : Slot) (p : RingElem) (t : Domain) :
    s.writeSlot d p t = { s with slots := (s.writeSlot d p t).slots, tags := (s.writeSlot d p t).tags } := rfl

/-- Elements of a vector inside the slot file are distinct slots. -/
theorem vecElem_inj (b : Slot) (i j : Nat) (hi : b.val + i < 32) (hj : b.val + j < 32) :
    vecElem b i = vecElem b j ↔ i = j := by
  simp only [vecElem, Fin.ext_iff, Fin.val_ofNat]
  omega

/-- A vector write is one more element after a shorter one. -/
theorem writeVector_succ (s : State) (d : Slot) (n : Nat) (v : Nat → RingElem) (t : Nat → Domain) :
    s.writeVector d (n + 1) v t = (s.writeVector d n v t).writeSlot (vecElem d n) (v n) (t n) := by
  simp [State.writeVector, List.range_succ]

/-- A vector write touches the slot file and the tag file only. -/
theorem writeVector_only (s : State) (d : Slot) (n : Nat) (v : Nat → RingElem) (t : Nat → Domain) :
    s.writeVector d n v t =
      { s with slots := (s.writeVector d n v t).slots, tags := (s.writeVector d n v t).tags } := by
  induction n with
  | zero => rfl
  | succ n ih =>
    rw [writeVector_succ]
    conv_lhs => rw [ih]
    rfl

/-- A slot outside the first `n` elements keeps its coefficients and its tag. -/
theorem writeVector_outside (s : State) (d e : Slot) (n : Nat) (v : Nat → RingElem) (t : Nat → Domain)
    (h : ∀ i < n, e ≠ vecElem d i) :
    (s.writeVector d n v t).slot e = s.slot e ∧ (s.writeVector d n v t).tag e = s.tag e := by
  induction n with
  | zero => exact ⟨rfl, rfl⟩
  | succ n ih =>
    have hn := h n (by omega)
    have hs := ih fun i hi => h i (by omega)
    rw [writeVector_succ]
    exact ⟨(slot_writeSlot_ne _ _ _ _ _ hn).trans hs.1, (tag_writeSlot_ne _ _ _ _ _ hn).trans hs.2⟩

/-- Element `i` of a vector write inside the slot file holds its value and its tag. -/
theorem writeVector_elem (s : State) (d : Slot) (n : Nat) (v : Nat → RingElem) (t : Nat → Domain)
    (hd : d.val + n ≤ 32) (i : Nat) (hi : i < n) :
    (s.writeVector d n v t).slot (vecElem d i) = v i ∧ (s.writeVector d n v t).tag (vecElem d i) = t i := by
  induction n with
  | zero => omega
  | succ n ih =>
    rw [writeVector_succ]
    by_cases h : i = n
    · subst h; simp
    · have hne : vecElem d i ≠ vecElem d n := fun he => h ((vecElem_inj d i n (by omega) (by omega)).mp he)
      rw [slot_writeSlot_ne _ _ _ _ _ hne, tag_writeSlot_ne _ _ _ _ _ hne]
      exact ih (by omega) (by omega)

end Sys2Proof.Laws
end

