-- ==== Sys2Proof/Laws/Step.lean ====
section
/-! SUPPORT. What each shared operation can do, said once: a command rule, a host access, the engine's turn, the step. -/

namespace Sys2Proof.Laws

open Sys2Proof.Machine

/-- Everything a command rule can do: raise SLOT_RANGE, raise DOMAIN, or have its effect. -/
theorem runChecked_cases (i : Instr) (s : State) (f : State → State) :
    (rangeOk s.k i = false ∧ runChecked i s f = .next (s.record .slotRange (encode i))) ∨
    (rangeOk s.k i = true ∧ domainOk s i = false ∧ runChecked i s f = .next (s.record .domain (encode i))) ∨
    (rangeOk s.k i = true ∧ domainOk s i = true ∧ runChecked i s f = .next (f s)) := by
  unfold runChecked State.cmdError
  cases hr : rangeOk s.k i <;> cases hd : domainOk s i <;> simp

/-- A command rule whose checks pass has its effect. -/
theorem runChecked_ok (i : Instr) (s : State) (f : State → State) (hr : rangeOk s.k i = true)
    (hd : domainOk s i = true) : runChecked i s f = .next (f s) := by
  simp [runChecked, hr, hd]

/-- A range inside the slot file, as the spec writes it. -/
theorem baseOk_iff (s : State) (b : Slot) : baseOk s.k b = true ↔ Safety.BaseLegal s b := by
  have : 2 ≤ s.k := by unfold State.k Rank.toNat; split <;> omega
  simp only [baseOk, Safety.BaseLegal, decide_eq_true_eq]
  omega

theorem allTagged_iff (s : State) (b : Slot) (t : Domain) :
    s.allTagged b t = true ↔ ∀ i < s.k, s.tag (vecElem b i) = t := by
  simp [State.allTagged]

theorem sameTags_iff (s : State) (a b : Slot) :
    s.sameTags a b = true ↔ ∀ i < s.k, s.tag (vecElem a i) = s.tag (vecElem b i) := by
  simp [State.sameTags]

/-- Every meaning is a command rule: its checks, then an effect on the state. -/
theorem exec_is_runChecked (i : Instr) (s : State) : ∃ f, exec i s = runChecked i s f := by
  cases i <;>
    simp only [exec, execNop, execPadd, execPsub, execPntt, execPintt, execPmul, execPmac, execPcopy, execPzero,
      execSettag, execClrall, execVadd, execVsub, execVntt, execVintt, execVpmul, execVdot] <;>
    exact ⟨_, rfl⟩

/-- Every command completes or raises: `exec` never stops (60_exceptions.md R220). -/
theorem exec_next (i : Instr) (s : State) : ∃ t, exec i s = .next t := by
  obtain ⟨f, h⟩ := exec_is_runChecked i s
  rcases runChecked_cases i s f with c | c | c
  · exact ⟨_, h.trans c.2⟩
  · exact ⟨_, h.trans c.2.2⟩
  · exact ⟨_, h.trans c.2.2⟩

/-- An address inside the window reaches its offset (20_memory.md R62). -/
theorem offset_base_add (b : Build) (off : Nat) (h : off < 4096) : Build.offset b (b.base + off) = some off := by
  simp [Build.offset, h]

/-- Everything an access inside the window does. -/
theorem hostAccess_write (s : State) (off size : Nat) (w : Word) (h : off < 4096) :
    s.hostAccess (.write (s.build.base + off) size w) =
      if s.takesEffect off size then s.writeReg (regAt off) w else s := by
  simp [State.hostAccess, offset_base_add _ _ h]

theorem hostAccess_read (s : State) (off size : Nat) (h : off < 4096) :
    s.hostAccess (.read (s.build.base + off) size) =
      { s with rdata := if s.takesEffect off size then s.readReg (regAt off) else 0 } := by
  simp [State.hostAccess, offset_base_add _ _ h]

@[simp] theorem takesEffect_word (s : State) (off : Nat) (hr : s.rst = false) (ha : off % 4 = 0) :
    s.takesEffect off 4 = true := by
  simp [State.takesEffect, hr, ha]

/-- The window's words (10_state.md R37). -/
theorem regAt_win (j : Fin 256) : regAt (0x400 + 4 * j.val) = .win j := by
  have hj : (0x400 + 4 * j.val - 0x400) / 4 = j.val := by omega
  have h : 0x400 ≤ 0x400 + 4 * j.val ∧ 0x400 + 4 * j.val < 0x800 := ⟨by omega, by omega⟩
  unfold regAt
  simp only [hj, h, and_self, if_true]
  repeat rw [if_neg (by omega)]
  congr 1
  exact Fin.ext (by simp)

/-- Everything the engine's turn can do. -/
theorem engineStep_cases (s : State) :
    (s.engineStep = .next s ∧ (s.rst = true ∨ s.pend.valid = false ∧ s.clr = false)) ∨
    (s.engineStep = .next s.zeroize ∧ s.rst = false ∧ s.pend.valid = false ∧ s.clr = true) ∨
    (∃ i t, decode s.pend.word = .command i ∧ exec i s = .next t ∧ s.engineStep = .next t.complete ∧
      s.rst = false ∧ s.pend.valid = true) ∨
    (s.engineStep = .fault .pendingWordNotACommand ∧ s.rst = false ∧ s.pend.valid = true ∧
      ∀ i, decode s.pend.word ≠ .command i) := by
  unfold State.engineStep
  cases hr : s.rst
  · cases hv : s.pend.valid
    · cases hc : s.clr <;> simp
    · cases hd : decode s.pend.word with
      | command i =>
        obtain ⟨t, ht⟩ := exec_next i s
        simp [ht]
      | illegal => simp
      | reserved => simp
  · simp

theorem step_nil (s : State) (h : s.events = []) : step s = s.engineStep := by simp [step, h]

theorem step_engine (s : State) (rest : List Event) :
    step { s with events := .engine :: rest } = State.engineStep { s with events := rest } := rfl

theorem step_access (s : State) (a : Access) (rest : List Event) :
    step { s with events := .access a :: rest } = .next (State.hostAccess { s with events := rest } a) := rfl

theorem step_rst (s : State) (b : Bool) (rest : List Event) :
    step { s with events := .rst b :: rest } = .next (State.rstInput { s with events := rest } b) := rfl

end Sys2Proof.Laws
end

