-- ==== Sys2Proof/Laws/Events.lean ====
section
/-! SUPPORT. No step looks at the events that wait behind the one it takes: every operation commutes with replacing
them. -/

namespace Sys2Proof.Laws

open Sys2Proof.Machine

/-- `s` with other events waiting. -/
def withEvents (s : State) (r : List Event) : State := { s with events := r }

theorem withEvents_eq (s : State) (r : List Event) : { s with events := r } = withEvents s r := rfl

@[simp] theorem withEvents_build (s : State) (r : List Event) : (withEvents s r).build = s.build := rfl
@[simp] theorem withEvents_err (s : State) (r : List Event) : (withEvents s r).err = s.err := rfl
@[simp] theorem withEvents_rst (s : State) (r : List Event) : (withEvents s r).rst = s.rst := rfl
@[simp] theorem withEvents_pend (s : State) (r : List Event) : (withEvents s r).pend = s.pend := rfl
@[simp] theorem withEvents_clr (s : State) (r : List Event) : (withEvents s r).clr = s.clr := rfl
@[simp] theorem withEvents_winsel (s : State) (r : List Event) : (withEvents s r).winsel = s.winsel := rfl
@[simp] theorem withEvents_busy (s : State) (r : List Event) : (withEvents s r).busy = s.busy := rfl
@[simp] theorem withEvents_k (s : State) (r : List Event) : (withEvents s r).k = s.k := rfl
@[simp] theorem withEvents_slot (s : State) (r : List Event) (e : Slot) : (withEvents s r).slot e = s.slot e := rfl
@[simp] theorem withEvents_tag (s : State) (r : List Event) (e : Slot) : (withEvents s r).tag e = s.tag e := rfl
@[simp] theorem withEvents_readReg (s : State) (r : List Event) (g : Reg) :
    (withEvents s r).readReg g = s.readReg g := by cases g <;> rfl
@[simp] theorem withEvents_takesEffect (s : State) (r : List Event) (off size : Nat) :
    (withEvents s r).takesEffect off size = s.takesEffect off size := rfl

@[simp] theorem domainOk_withEvents (s : State) (r : List Event) (i : Instr) :
    domainOk (withEvents s r) i = domainOk s i := by cases i <;> rfl

theorem record_withEvents (s : State) (r : List Event) (c : ErrCode) (w : Word) :
    (withEvents s r).record c w = withEvents (s.record c w) r := by
  cases h : s.err
  · rw [record_of_no_err _ _ _ h, record_of_no_err _ _ _ (by simpa using h)]; rfl
  · rw [record_of_err _ _ _ h, record_of_err _ _ _ (by simpa using h)]

theorem accept_withEvents (s : State) (r : List Event) (w : Word) :
    (withEvents s r).accept w = withEvents (s.accept w) r := rfl

theorem resetEvent_withEvents (s : State) (r : List Event) :
    (withEvents s r).resetEvent = withEvents s.resetEvent r := rfl

theorem onCmdWrite_withEvents (s : State) (r : List Event) (w : Word) :
    (withEvents s r).onCmdWrite w = withEvents (s.onCmdWrite w) r := by
  simp only [State.onCmdWrite, State.cmdError, withEvents_err, withEvents_busy, withEvents_k, domainOk_withEvents,
    record_withEvents, accept_withEvents]
  cases s.err
  · cases s.busy
    · cases decode w with
      | command i => cases hr : rangeOk s.k i <;> cases hd : domainOk s i <;> simp [hr, hd]
      | illegal => rfl
      | reserved => rfl
    · rfl
  · rfl

/-- A register write does not look at the waiting events. -/
theorem writeReg_withEvents (s : State) (r : List Event) (g : Reg) (w : Word) :
    (withEvents s r).writeReg g w = withEvents (s.writeReg g w) r := by
  cases g with
  | id => rfl
  | tags => rfl
  | errInfo => rfl
  | reserved => rfl
  | cmd => exact onCmdWrite_withEvents s r w
  | ctrl =>
    simp only [State.writeReg, State.onCtrlWrite, resetEvent_withEvents]
    cases w.getLsbD 1 <;> rfl
  | status =>
    simp only [State.writeReg, State.onStatusWrite]
    cases w.getLsbD 1 <;> cases w.getLsbD 2 <;> rfl
  | winsel =>
    simp only [State.writeReg, State.onWinselWrite, State.winBusyError, withEvents_busy, record_withEvents]
    cases s.busy <;> rfl
  | win j =>
    simp only [State.writeReg, State.onWinWrite, State.winBusyError, State.winRangeError, withEvents_busy,
      withEvents_winsel, record_withEvents]
    cases s.busy <;> by_cases hq : Q ≤ w.toNat <;>
      (simp only [hq, if_true, if_false, Bool.false_eq_true]; try rfl)

/-- A host access does not look at the waiting events. -/
theorem hostAccess_withEvents (s : State) (r : List Event) (a : Access) :
    (withEvents s r).hostAccess a = withEvents (s.hostAccess a) r := by
  cases a with
  | read addr size =>
    simp only [State.hostAccess, withEvents_build, withEvents_takesEffect, withEvents_readReg]
    cases Build.offset s.build addr <;> rfl
  | write addr size w =>
    simp only [State.hostAccess, withEvents_build, withEvents_takesEffect, writeReg_withEvents]
    cases Build.offset s.build addr with
    | none => rfl
    | some off => cases h : s.takesEffect off size <;> simp [h]

/-- A change of RST does not look at the waiting events. -/
theorem rstInput_withEvents (s : State) (r : List Event) (b : Bool) :
    (withEvents s r).rstInput b = withEvents (s.rstInput b) r := by
  simp only [State.rstInput, withEvents_rst, resetEvent_withEvents]
  by_cases h : b = s.rst <;> (simp only [h, if_true, if_false]; try rfl)

/-- A vector write does not look at the waiting events. -/
theorem writeVector_withEvents (s : State) (r : List Event) (d : Slot) (n : Nat) (v : Nat → RingElem)
    (t : Nat → Domain) : (withEvents s r).writeVector d n v t = withEvents (s.writeVector d n v t) r := by
  induction n with
  | zero => rfl
  | succ n ih => rw [writeVector_succ, writeVector_succ, ih]; rfl

/-- A command rule whose effect does not look at the waiting events does not either. -/
theorem runChecked_withEvents (i : Instr) (s t : State) (r : List Event) (f : State → State)
    (hf : f (withEvents s r) = withEvents (f s) r) (h : runChecked i s f = .next t) :
    runChecked i (withEvents s r) f = .next (withEvents t r) := by
  simp only [runChecked, State.cmdError, withEvents_k, domainOk_withEvents, record_withEvents, hf] at h ⊢
  cases hr : rangeOk s.k i <;> cases hd : domainOk s i <;>
    (simp only [hr, hd, if_true, if_false, Bool.true_eq_false, Host.Outcome.next.injEq] at h ⊢; rw [h])

/-- A command does not look at the waiting events. -/
theorem exec_withEvents (i : Instr) (s t : State) (r : List Event) (h : exec i s = .next t) :
    exec i (withEvents s r) = .next (withEvents t r) := by
  cases i <;>
    simp only [exec, execNop, execPadd, execPsub, execPntt, execPintt, execPmul, execPmac, execPcopy, execPzero,
      execSettag, execClrall, execVadd, execVsub, execVntt, execVintt, execVpmul, execVdot] at h ⊢ <;>
    refine runChecked_withEvents _ s t r _ ?_ h <;> first | rfl | exact writeVector_withEvents _ _ _ _ _ _

/-- The engine's turn does not look at the waiting events. -/
theorem engineStep_withEvents (s t : State) (r : List Event) (h : s.engineStep = .next t) :
    (withEvents s r).engineStep = .next (withEvents t r) := by
  unfold State.engineStep at h ⊢
  simp only [withEvents_rst, withEvents_pend, withEvents_clr]
  by_cases hr : s.rst = true
  · simp only [hr, if_true, Host.Outcome.next.injEq] at h ⊢
    rw [h]
  by_cases hv : s.pend.valid = true
  · cases hd : decode s.pend.word with
    | command i =>
      obtain ⟨u, hu⟩ := exec_next i s
      simp only [hr, hv, hd, hu, exec_withEvents i s u r hu, if_true, if_false, Bool.false_eq_true,
        Host.Outcome.next.injEq] at h ⊢
      rw [← h]; rfl
    | illegal => simp [hr, hv, hd] at h
    | reserved => simp [hr, hv, hd] at h
  by_cases hc : s.clr = true
  · simp only [hr, hv, hc, if_true, if_false, Bool.false_eq_true, Host.Outcome.next.injEq] at h ⊢
    rw [← h]; rfl
  · simp only [hr, hv, hc, if_false, Bool.false_eq_true, Host.Outcome.next.injEq] at h ⊢
    rw [h]

/-! ### Events as the statements speak of them -/

/-- Any access as an event. -/
theorem takes_access_intro (s : State) (a : Access) : Safety.Takes s (.access a) (s.hostAccess a) := fun rest => by
  rw [step_access, withEvents_eq, hostAccess_withEvents, withEvents_eq]

/-- A host write as an event leads to what the register write answers (20_memory.md R64, R71). -/
theorem hostWrites_intro (s : State) (off : Nat) (w : Word) (ho : off < 4096) (ha : off % 4 = 0) (hr : s.rst = false) :
    Safety.HostWrites s off w (s.writeReg (regAt off) w) := by
  have h := takes_access_intro s (.write (s.build.base + off) 4 w)
  rwa [hostAccess_write _ _ _ _ ho, takesEffect_word s off hr ha, if_pos rfl] at h

/-- A host read as an event returns what the register reads (20_memory.md R64, R68, R71). -/
theorem hostReads_intro (s : State) (off : Nat) (ho : off < 4096) (ha : off % 4 = 0) (hr : s.rst = false) :
    Safety.HostReads s off (s.readReg (regAt off)) := by
  have h := takes_access_intro s (.read (s.build.base + off) 4)
  rwa [hostAccess_read _ _ _ ho, takesEffect_word s off hr ha, if_pos rfl] at h

/-- The engine's turn as an event. -/
theorem takes_engine_intro (s t : State) (h : s.engineStep = .next t) : Safety.Takes s .engine t := fun rest => by
  rw [step_engine, withEvents_eq, engineStep_withEvents s t rest h, withEvents_eq]

/-- A change of RST as an event. -/
theorem takes_rst_intro (s : State) (b : Bool) : Safety.Takes s (.rst b) (s.rstInput b) := fun rest => by
  rw [step_rst, withEvents_eq, rstInput_withEvents, withEvents_eq]

end Sys2Proof.Laws
end

