-- ==== Sys2Proof/Laws/PerInstr.lean ====
section
/-! SUPPORT. Facts about every command as syntax, one lemma per constructor. -/

namespace Sys2Proof.Laws

open Sys2Proof.Machine

/-- The state's range check and the syntax's well-formedness are one condition, for every build: the `require` lines of
44_vector.md R181 to R186 against item 1 of R180. -/
def RangeIsWellFormed.Statement (i : Instr) : Prop := ∀ k : Rank, rangeOk k.toNat i = i.wellFormed k

/-- `b + K <= 32` is `b + K - 1 <= 31`, since K is at least 2. -/
theorem baseOk_eq (k : Rank) (b : Slot) : baseOk k.toNat b = decide (b.val + k.toNat - 1 ≤ 31) := by
  unfold baseOk
  cases k <;> simp only [Rank.toNat] <;> congr 1 <;> apply propext <;> omega

theorem RangeIsWellFormed.nop : RangeIsWellFormed.Statement .nop := fun _ => rfl
theorem RangeIsWellFormed.padd (d a b : Slot) : RangeIsWellFormed.Statement (.padd d a b) := fun _ => rfl
theorem RangeIsWellFormed.psub (d a b : Slot) : RangeIsWellFormed.Statement (.psub d a b) := fun _ => rfl
theorem RangeIsWellFormed.pntt (d a : Slot) : RangeIsWellFormed.Statement (.pntt d a) := fun _ => rfl
theorem RangeIsWellFormed.pintt (d a : Slot) : RangeIsWellFormed.Statement (.pintt d a) := fun _ => rfl
theorem RangeIsWellFormed.pmul (d a b : Slot) : RangeIsWellFormed.Statement (.pmul d a b) := fun _ => rfl
theorem RangeIsWellFormed.pmac (d a b : Slot) : RangeIsWellFormed.Statement (.pmac d a b) := fun _ => rfl
theorem RangeIsWellFormed.pcopy (d a : Slot) : RangeIsWellFormed.Statement (.pcopy d a) := fun _ => rfl
theorem RangeIsWellFormed.pzero (d : Slot) (t : Domain) : RangeIsWellFormed.Statement (.pzero d t) := fun _ => rfl
theorem RangeIsWellFormed.settag (d : Slot) (t : Domain) : RangeIsWellFormed.Statement (.settag d t) := fun _ => rfl
theorem RangeIsWellFormed.clrall : RangeIsWellFormed.Statement .clrall := fun _ => rfl

theorem RangeIsWellFormed.vadd (d a b : Slot) : RangeIsWellFormed.Statement (.vadd d a b) := fun k => by
  simp [rangeOk, Instr.wellFormed, Instr.vectorBases, baseOk_eq, Bool.and_assoc]

theorem RangeIsWellFormed.vsub (d a b : Slot) : RangeIsWellFormed.Statement (.vsub d a b) := fun k => by
  simp [rangeOk, Instr.wellFormed, Instr.vectorBases, baseOk_eq, Bool.and_assoc]

theorem RangeIsWellFormed.vntt (d a : Slot) : RangeIsWellFormed.Statement (.vntt d a) := fun k => by
  simp [rangeOk, Instr.wellFormed, Instr.vectorBases, baseOk_eq]

theorem RangeIsWellFormed.vintt (d a : Slot) : RangeIsWellFormed.Statement (.vintt d a) := fun k => by
  simp [rangeOk, Instr.wellFormed, Instr.vectorBases, baseOk_eq]

theorem RangeIsWellFormed.vpmul (d a b : Slot) : RangeIsWellFormed.Statement (.vpmul d a b) := fun k => by
  simp [rangeOk, Instr.wellFormed, Instr.vectorBases, baseOk_eq, Bool.and_assoc]

theorem RangeIsWellFormed.vdot (d a b : Slot) : RangeIsWellFormed.Statement (.vdot d a b) := fun k => by
  simp [rangeOk, Instr.wellFormed, Instr.vectorBases, baseOk_eq]

end Sys2Proof.Laws
end

