-- ==== Sys2Proof/Laws/Ring.lean ====
section
/-! SUPPORT. Ring elements built from lists: their coefficient lists, and the lengths of the transforms' lists. -/

namespace Sys2Proof.Laws

open Sys2Proof.Machine

/-- A list of 256 coefficients is the coefficient list of its ring element. -/
theorem toList_ringElemOfList (l : List Coeff) (h : l.length = 256) : (ringElemOfList l).toList = l := by
  have take (n : Nat) (r : List Coeff) (hn : l.length = n) : (l ++ r).take n = l := by subst hn; simp
  exact take 256 _ h

theorem getElem_ringElemOfList (l : List Coeff) (h : l.length = 256) (j : Nat) (hj : j < 256) :
    (ringElemOfList l)[j] = l[j]'(by omega) := by
  have := toList_ringElemOfList l h
  rw [← Vector.getElem_toList (h := by simpa using hj)]
  simp only [this]

@[simp] theorem ringZero_getElem (j : Nat) (hj : j < 256) : ringZero[j] = 0 := by simp [ringZero]

/-- Coefficient `j` of a coefficient-wise operation (43_poly_addsub.md R170, R171). -/
theorem getElem_ringZipWith (f : Coeff → Coeff → Coeff) (p q : RingElem) (j : Nat) (hj : j < 256) :
    (ringZipWith f p q)[j] = f p[j] q[j] := by
  unfold ringZipWith
  rw [getElem_ringElemOfList _ (by simp) j hj]
  simp

theorem polyAdd_getElem (p q : RingElem) (j : Nat) (hj : j < 256) : (polyAdd p q)[j] = modAdd p[j] q[j] :=
  getElem_ringZipWith modAdd p q j hj

theorem polySub_getElem (p q : RingElem) (j : Nat) (hj : j < 256) : (polySub p q)[j] = modSub p[j] q[j] :=
  getElem_ringZipWith modSub p q j hj

theorem length_fwdBlock (z : Coeff) (lo hi : List Coeff) (h : lo.length = hi.length) :
    (fwdBlock z lo hi).length = 2 * lo.length := by
  simp [fwdBlock, ← h]; omega

theorem length_invBlock (z : Coeff) (lo hi : List Coeff) (h : lo.length = hi.length) :
    (invBlock z lo hi).length = 2 * lo.length := by
  simp [invBlock, ← h]; omega

/-- A forward layer keeps the length of what its blocks cover. -/
theorem length_fwdLayer (len : Nat) : ∀ (n i : Nat) (g : List Coeff), g.length = 2 * len * n →
    (fwdLayer len n i g).length = 2 * len * n
  | 0, _, _, _ => by simp [fwdLayer]
  | n + 1, i, g, h => by
    have hm : 2 * len * (n + 1) = 2 * len * n + 2 * len := by ring
    have ih := length_fwdLayer len n (i + 1) (g.drop (2 * len)) (by rw [List.length_drop]; omega)
    rw [fwdLayer, List.length_append, ih, length_fwdBlock _ _ _ (by simp; omega), List.length_take]
    omega

/-- An inverse layer keeps the length of what its blocks cover. -/
theorem length_invLayer (len : Nat) : ∀ (n i : Nat) (g : List Coeff), g.length = 2 * len * n →
    (invLayer len n i g).length = 2 * len * n
  | 0, _, _, _ => by simp [invLayer]
  | n + 1, i, g, h => by
    have hm : 2 * len * (n + 1) = 2 * len * n + 2 * len := by ring
    have ih := length_invLayer len n (i - 1) (g.drop (2 * len)) (by rw [List.length_drop]; omega)
    rw [invLayer, List.length_append, ih, length_invBlock _ _ _ (by simp; omega), List.length_take]
    omega

theorem length_nttList (f : List Coeff) (h : f.length = 256) : (nttList f).length = 256 := by
  have step (len : Nat) (hl : 2 * len * (128 / len) = 256) (g : List Coeff) (hg : g.length = 256) :
      (fwdLayer len (128 / len) (128 / len) g).length = 256 := by
    rw [length_fwdLayer _ _ _ _ (by omega), hl]
  simp only [nttList, fwdLens, List.foldl_cons, List.foldl_nil]
  iterate 7 refine step _ (by norm_num) _ ?_
  exact h

theorem length_inttList (f : List Coeff) (h : f.length = 256) : (inttList f).length = 256 := by
  have step (len : Nat) (hl : 2 * len * (128 / len) = 256) (g : List Coeff) (hg : g.length = 256) :
      (invLayer len (128 / len) (256 / len - 1) g).length = 256 := by
    rw [length_invLayer _ _ _ _ (by omega), hl]
  simp only [inttList, invLens, List.foldl_cons, List.foldl_nil, List.length_map]
  iterate 7 refine step _ (by norm_num) _ ?_
  exact h

@[simp] theorem toList_ntt (f : RingElem) : (ntt f).toList = nttList f.toList :=
  toList_ringElemOfList _ (length_nttList _ (by simp))

@[simp] theorem toList_intt (f : RingElem) : (intt f).toList = inttList f.toList :=
  toList_ringElemOfList _ (length_inttList _ (by simp))

/-- The pair products come in pairs. -/
theorem length_baseMulPairs : ∀ (n i : Nat) (f g : List Coeff), f.length = 2 * n → g.length = 2 * n →
    (baseMulPairs i f g).length = 2 * n
  | 0, i, f, g, hf, hg => by
    have : f = [] := List.length_eq_zero_iff.mp (by omega)
    subst this; simp [baseMulPairs]
  | n + 1, i, f0 :: f1 :: f, g0 :: g1 :: g, hf, hg => by
    simp only [List.length_cons] at hf hg
    simp only [baseMulPairs, List.length_cons, length_baseMulPairs n (i + 1) f g (by omega) (by omega)]
    omega
  | _ + 1, _, [], _, hf, _ => by simp at hf
  | _ + 1, _, [_], _, hf, _ => by simp at hf; omega
  | _ + 1, _, _ :: _ :: _, [], _, hg => by simp at hg
  | _ + 1, _, _ :: _ :: _, [_], _, hg => by simp at hg; omega

@[simp] theorem toList_baseMul (f g : RingElem) : (baseMul f g).toList = baseMulPairs 0 f.toList g.toList :=
  toList_ringElemOfList _ (length_baseMulPairs 128 0 _ _ (by simp) (by simp))

end Sys2Proof.Laws
end

