-- ==== Sys2Proof/Machine/Assembly.lean ====
section
/-! DEFINITION. The assembler syntax and the pseudo-instructions (30_encoding.md R105 to R107). It is text only: no
machine state and no step depends on it. -/

namespace Sys2Proof.Machine

/-- The pseudo-instructions (30_encoding.md R107). -/
inductive Pseudo where
  | pmov (d a : Slot)
  | pclr (d : Slot)
  | pclrn (d : Slot)
  | markntt (d : Slot)
  | marknorm (d : Slot)
  | pdbl (d a : Slot)
  deriving DecidableEq, Repr

/-- Each expands to exactly one command (30_encoding.md R107). -/
def Pseudo.expand : Pseudo → Instr
  | .pmov d a => .pcopy d a
  | .pclr d => .pzero d .normal
  | .pclrn d => .pzero d .ntt
  | .markntt d => .settag d .ntt
  | .marknorm d => .settag d .normal
  | .pdbl d a => .padd d a a

/-- A parsed operand (30_encoding.md R106). -/
inductive AsmOperand where
  | slot (s : Slot)
  | tag (t : Domain)
  deriving DecidableEq, Repr

/-- A slot number as written after `p`, with no leading zero (30_encoding.md R106). -/
def slotDigits (s : Slot) : List Char :=
  let digit (n : Nat) : Char := Char.ofNat (48 + n)
  if s.val < 10 then [digit s.val] else [digit (s.val / 10), digit (s.val % 10)]

/-- `p0` to `p31`, `#0` or `#N`, `#1` or `#T` (30_encoding.md R106). -/
def parseOperand : List Char → Option AsmOperand
  | ['#', '0'] => some (.tag .normal)
  | ['#', 'N'] => some (.tag .normal)
  | ['#', '1'] => some (.tag .ntt)
  | ['#', 'T'] => some (.tag .ntt)
  | 'p' :: cs => ((List.finRange 32).find? fun s => slotDigits s == cs).map .slot
  | _ => none

/-- The text between commas. -/
def splitCommas : List Char → List (List Char)
  | [] => [[]]
  | c :: cs =>
    match splitCommas cs with
    | [] => [[c]]
    | w :: ws => if c = ',' then [] :: w :: ws else (c :: w) :: ws

/-- The operand list of a line; nothing at all is no operands (30_encoding.md R105). Blanks around operands, and blanks
inside one (`p 1 2` reads as `p12`), are dropped: DESIGN CHOICE, the spec does not speak of either (log 13). -/
def parseOperands (cs : List Char) : Option (List AsmOperand) :=
  let cs := cs.filter (· ≠ ' ')
  if cs = [] then some [] else (splitCommas cs).mapM parseOperand

/-- The command of an upper-case mnemonic and its operands, by format (30_encoding.md R95, R105, R107). -/
def commandOfMnemonic (m : List Char) : List AsmOperand → Option Instr
  | [] =>
    if m = ['N', 'O', 'P'] then some .nop
    else if m = ['C', 'L', 'R', 'A', 'L', 'L'] then some .clrall
    else none
  | [.slot d] =>
    if m = ['P', 'C', 'L', 'R'] then some (Pseudo.pclr d).expand
    else if m = ['P', 'C', 'L', 'R', 'N'] then some (Pseudo.pclrn d).expand
    else if m = ['M', 'A', 'R', 'K', 'N', 'T', 'T'] then some (Pseudo.markntt d).expand
    else if m = ['M', 'A', 'R', 'K', 'N', 'O', 'R', 'M'] then some (Pseudo.marknorm d).expand
    else none
  | [.slot d, .tag t] =>
    if m = ['P', 'Z', 'E', 'R', 'O'] then some (.pzero d t)
    else if m = ['S', 'E', 'T', 'T', 'A', 'G'] then some (.settag d t)
    else none
  | [.slot d, .slot a] =>
    if m = ['P', 'N', 'T', 'T'] then some (.pntt d a)
    else if m = ['P', 'I', 'N', 'T', 'T'] then some (.pintt d a)
    else if m = ['P', 'C', 'O', 'P', 'Y'] then some (.pcopy d a)
    else if m = ['V', 'N', 'T', 'T'] then some (.vntt d a)
    else if m = ['V', 'I', 'N', 'T', 'T'] then some (.vintt d a)
    else if m = ['P', 'M', 'O', 'V'] then some (Pseudo.pmov d a).expand
    else if m = ['P', 'D', 'B', 'L'] then some (Pseudo.pdbl d a).expand
    else none
  | [.slot d, .slot a, .slot b] =>
    if m = ['P', 'A', 'D', 'D'] then some (.padd d a b)
    else if m = ['P', 'S', 'U', 'B'] then some (.psub d a b)
    else if m = ['P', 'M', 'U', 'L'] then some (.pmul d a b)
    else if m = ['P', 'M', 'A', 'C'] then some (.pmac d a b)
    else if m = ['V', 'A', 'D', 'D'] then some (.vadd d a b)
    else if m = ['V', 'S', 'U', 'B'] then some (.vsub d a b)
    else if m = ['V', 'P', 'M', 'U', 'L'] then some (.vpmul d a b)
    else if m = ['V', 'D', 'O', 'T'] then some (.vdot d a b)
    else none
  | _ => none

/-- One line: a mnemonic in either case, a space, its operands; a comment starts with `;` (30_encoding.md R105). -/
def assembleLine (line : List Char) : Option Instr :=
  let text := (line.takeWhile (· ≠ ';')).dropWhile (· = ' ')
  let mnemonic := (text.takeWhile (· ≠ ' ')).map Char.toUpper
  (parseOperands (text.dropWhile (· ≠ ' '))).bind (commandOfMnemonic mnemonic)

end Sys2Proof.Machine
end

