-- ==== Sys2Proof/Machine/HostNotation.lean ====
section
/-! DEFINITION. The host program notation as lists of events (30_encoding.md R108). These are host actions, not
commands: KRAE has no control flow (R109). -/

namespace Sys2Proof.Machine

/-- `W off, v` (30_encoding.md R108). -/
def hostW (b : Build) (off : Nat) (v : Word) : Event := .access (.write (b.base + off) 4 v)

/-- `R off` (30_encoding.md R108); the answer is in `rdata` after the step. -/
def hostR (b : Build) (off : Nat) : Event := .access (.read (b.base + off) 4)

/-- `CMD c`, that is `W 0x00C, enc(c)` (30_encoding.md R108). -/
def hostCmd (b : Build) (i : Instr) : Event := hostW b 0x00C (encode i)

/-- The condition that ends `POLL off, mask, v` (30_encoding.md R108). The loop is the host's. -/
def pollDone (value mask v : Word) : Bool := value &&& mask = v

/-- `WAIT` on the schedule in which the engine takes its turn before the first poll; every other schedule differs only
in how many polls answer BUSY = 1 (93_implementation_defined.md U7; 30_encoding.md R108). -/
def hostWait (b : Build) : List Event := [.engine, hostR b 0x008]

/-- `LOADP s, [c0, …]`, a shorter list padded with zeros (30_encoding.md R108). -/
def hostLoadp (b : Build) (s : Slot) (cs : List Word) : List Event :=
  hostW b 0x010 (BitVec.ofNat 32 s.val) :: (List.range 256).map fun j => hostW b (0x400 + 4 * j) (cs.getD j 0)

/-- `STOREP s` (30_encoding.md R108). -/
def hostStorep (b : Build) (s : Slot) : List Event :=
  hostW b 0x010 (BitVec.ofNat 32 s.val) :: (List.range 256).map fun j => hostR b (0x400 + 4 * j)

end Sys2Proof.Machine
end

