-- ==== Sys2Proof/Tests/Slice0.lean ====
section
/-! SUPPORT. The model's own tests, with expected values from spec/95_test_vectors.md or worked from the rules, and one
witness for each statement that has hypotheses. -/

namespace Sys2Proof.Tests

open Sys2Proof.Machine Sys2Proof.Safety

-- One theorem at a time: many kernel evaluations waiting for each other would each hold a thread.
set_option Elab.async false

/-! ### Well-formedness: each check refuses an ill-formed term (44_vector.md R180) -/

theorem test_wf_legal_bases : (Instr.vadd 29 29 29).wellFormed .three ∧ (Instr.vdot 31 28 28).wellFormed .four ∧
    (Instr.vntt 30 30).wellFormed .two ∧ (Instr.padd 31 31 31).wellFormed .four := by decide
theorem test_wf_vadd_refused : ¬(Instr.vadd 30 0 0).wellFormed .three ∧ ¬(Instr.vadd 0 30 0).wellFormed .three ∧
    ¬(Instr.vadd 0 0 30).wellFormed .three := by decide
theorem test_wf_vsub_refused : ¬(Instr.vsub 31 0 0).wellFormed .two ∧ ¬(Instr.vsub 0 31 0).wellFormed .two ∧
    ¬(Instr.vsub 0 0 31).wellFormed .two := by decide
theorem test_wf_vpmul_refused : ¬(Instr.vpmul 29 0 0).wellFormed .four ∧ ¬(Instr.vpmul 0 29 0).wellFormed .four ∧
    ¬(Instr.vpmul 0 0 29).wellFormed .four := by decide
theorem test_wf_vntt_refused : ¬(Instr.vntt 31 0).wellFormed .two ∧ ¬(Instr.vntt 0 31).wellFormed .two := by decide
theorem test_wf_vintt_refused : ¬(Instr.vintt 30 0).wellFormed .three ∧ ¬(Instr.vintt 0 30).wellFormed .three := by
  decide
theorem test_wf_vdot_refused : ¬(Instr.vdot 0 30 0).wellFormed .three ∧ ¬(Instr.vdot 0 0 30).wellFormed .three := by
  decide

/-! ### Decoding: words written out from the bit pictures of 30_encoding.md R93 and the opcodes of R95 -/

theorem test_decode_nop : decode 0b00000000000000000000000000000000 = .command .nop := by decide
theorem test_decode_padd : decode 0b00011111000000010000001000000001 = .command (.padd 2 1 31) := by decide
theorem test_decode_psub : decode 0b00000001000000000000001000000010 = .command (.psub 2 0 1) := by decide
theorem test_decode_pntt : decode 0b00000000000111110000000100000011 = .command (.pntt 1 31) := by decide
theorem test_decode_pintt : decode 0b00000000000000010000001000000100 = .command (.pintt 2 1) := by decide
theorem test_decode_pmul : decode 0b00000011000000100000010000000101 = .command (.pmul 4 2 3) := by decide
theorem test_decode_pmac : decode 0b00000011000000000000101000000110 = .command (.pmac 10 0 3) := by decide
theorem test_decode_pcopy : decode 0b00000000000001000000011100001000 = .command (.pcopy 7 4) := by decide
theorem test_decode_pzero : decode 0b00000000000000010000010100001001 = .command (.pzero 5 .ntt) := by decide
theorem test_decode_settag : decode 0b00000000000000000001111100001010 = .command (.settag 31 .normal) := by decide
theorem test_decode_clrall : decode 0b00000000000000000000000000001011 = .command .clrall := by decide
theorem test_decode_vadd : decode 0b00000011000000000001110100010001 = .command (.vadd 29 0 3) := by decide
theorem test_decode_vsub : decode 0b00000010000000000000010000010010 = .command (.vsub 4 0 2) := by decide
theorem test_decode_vntt : decode 0b00000000000000110000001100010011 = .command (.vntt 3 3) := by decide
theorem test_decode_vintt : decode 0b00000000000001000000011000010100 = .command (.vintt 6 4) := by decide
theorem test_decode_vpmul : decode 0b00000000000000000000001000010101 = .command (.vpmul 2 0 0) := by decide
theorem test_decode_vdot : decode 0b00001000000000000001010000010110 = .command (.vdot 20 0 8) := by decide

/-- V-ERR-1, 2, 3: illegal opcodes, and ILLEGAL_OPCODE before the must-be-zero bits. -/
theorem test_decode_illegal : decode 0x07 = .illegal ∧ decode 0xFF = .illegal ∧ decode 0xFF07 = .illegal ∧
    decode 0x0C = .illegal ∧ decode 0x10 = .illegal ∧ decode 0x17 = .illegal := by decide
/-- V-ERR-4 to 7, V-HK-8: must-be-zero bits. -/
theorem test_decode_reserved : decode 0x01000103 = .reserved ∧ decode 0x100 = .reserved ∧ decode 0x2001 = .reserved ∧
    decode 0x001E3F16 = .reserved ∧ decode 0x00020009 = .reserved := by decide
theorem test_decode_bytes : decodeBytes [0x01, 0x02, 0x00, 0x01, 0xAA] = some (.command (.padd 2 0 1), [0xAA]) ∧
    decodeBytes [0x01, 0x02, 0x00] = none := by decide
theorem test_decode_table_word : decodeTableWord 32 0x00000013 = some (.vntt 0 0) ∧ decodeTableWord 32 0x07 = none := by
  decide

/-! ### Assembly text (30_encoding.md R105 to R107) -/

theorem test_assemble_case_comment : assembleLine "pAdd p2, p0, p31 ; a comment".toList = some (.padd 2 0 31) := by
  decide +kernel
theorem test_assemble_tag_alias : assembleLine "SETTAG p1, #T".toList = some (.settag 1 .ntt) := by decide +kernel
theorem test_assemble_pseudo : (assembleLine "PCLRN p10".toList).map encode = some 0x00010A09 ∧
    (assembleLine "PDBL p2, p0".toList).map encode = some 0x00000201 := by decide +kernel
theorem test_assemble_refuses : assembleLine "PADD p2, p0".toList = none ∧ assembleLine "PNTT p1, p32".toList = none := by
  decide +kernel

/-! ### Arithmetic (95_test_vectors.md 2.1) -/

theorem test_modAdd : modAdd 3328 1 = 0 ∧ modAdd 3328 3328 = 3327 ∧ modAdd 1664 1665 = 0 ∧ modAdd 1664 1664 = 3328 := by
  decide
theorem test_modSub : modSub 0 1 = 3328 ∧ modSub 0 3328 = 1 ∧ modSub 3328 0 = 3328 ∧ modSub 1234 1234 = 0 := by decide
theorem test_barrett : barrett 3329 = 0 ∧ barrett 6657 = 3328 ∧ barrett 11075584 = 1 ∧ barrett 22151168 = 2 ∧
    barrett 67108863 = 2881 := by decide
theorem test_modMul : modMul 3328 3328 = 1 ∧ modMul 128 3303 = 1 ∧ modMul 1729 1729 = 3328 := by decide

/-! ### Transforms (95_test_vectors.md 2.2) -/

/-- The ring element with the listed coefficients. -/
def poly (l : List Nat) : RingElem := ringElemOfList (l.map coeffOfNat)

/-- Coefficients `from` to `from + n - 1`. -/
def window (p : RingElem) (start n : Nat) : List Nat := ((p.toList.map BitVec.toNat).drop start).take n

/-- V-NTT-9. -/
theorem test_ntt_ramp : window (ntt (poly (List.range 256))) 0 8 = [2429, 2845, 425, 795, 1865, 1356, 624, 31] ∧
    window (ntt (poly (List.range 256))) 252 4 = [2502, 2134, 2717, 2303] := by decide +kernel
/-- V-NTT-8. -/
theorem test_ntt_x255 : window (ntt (poly (List.replicate 255 0 ++ [1]))) 0 8 =
    [0, 2154, 0, 1175, 0, 885, 0, 2444] := by decide +kernel
/-- V-NTT-15. -/
theorem test_intt_unit : window (intt (poly [1])) 0 8 = [3303, 0, 2740, 0, 357, 0, 21, 0] ∧
    window (intt (poly [1])) 128 4 = [1677, 0, 3036, 0] := by decide +kernel
/-- V-PW-3. -/
theorem test_baseMul_all : window (baseMul (poly (List.replicate 256 3328)) (poly (List.replicate 256 3328))) 0 8 =
    [18, 2, 3313, 2, 2762, 2, 569, 2] := by decide +kernel

/-! ### Commands -/

/-- The machine after zeroization, with nothing pending. -/
def idle : State := { State.reset with clr := false }

/-- The same with every tag NTT. -/
def idleNtt : State := { idle with tags := Vector.replicate 32 .ntt }

/-- The state an outcome leads to; `idle` for a stop. -/
def result : Host.Outcome State Fault Refusal → State
  | .next t => t
  | .fault _ => idle
  | .refused _ => idle

/-- `s` with a slot loaded. -/
def load (s : State) (e : Slot) (l : List Nat) : State := s.setSlot e (poly l)

/-- V-HK-1. -/
theorem test_nop : (result (step (idle.withFetchWord 32 0x00000000))).statusWord = 2 := by decide +kernel
/-- V-AS-1. -/
theorem test_padd : window ((result (exec (.padd 2 0 1) (load (load idle 0 [3328, 5]) 1 [1, 3328]))).slot 2) 0 3 =
    [0, 4, 0] := by decide +kernel
/-- V-AS-6, V-ERR-12: the mixed-domain sum is refused and recorded. -/
theorem test_padd_domain : ((result (exec (.padd 2 0 1) (idle.setTag 1 .ntt))).statusWord,
    (result (exec (.padd 2 0 1) (idle.setTag 1 .ntt))).errInfo) = (0x44, 0x01000201) := by decide +kernel
/-- V-AS-3. -/
theorem test_psub : window ((result (exec (.psub 2 0 1) (load (load idle 0 [0, 7]) 1 [1, 7]))).slot 2) 0 3 =
    [3328, 0, 0] := by decide +kernel
/-- 41_ntt.md R150's example, in place. -/
theorem test_pntt : window ((result (exec (.pntt 0 0) (load idle 0 [0, 1]))).slot 0) 0 4 = [0, 1, 0, 1] ∧
    (result (exec (.pntt 0 0) (load idle 0 [0, 1]))).tag 0 = .ntt := by decide +kernel
/-- V-ERR-9: an NTT-tagged source is refused, never transformed twice. -/
theorem test_pntt_domain : (result (exec (.pntt 2 1) idleNtt)).errCode = .domain := by decide +kernel
/-- 41_ntt.md R151's example. -/
theorem test_pintt : window ((result (exec (.pintt 2 1) (load idleNtt 1 (List.replicate 256 1)))).slot 2) 0 4 =
    [1, 1, 0, 0] ∧ (result (exec (.pintt 2 1) (load idleNtt 1 (List.replicate 256 1)))).tag 2 = .normal := by
  decide +kernel
/-- V-PW-2. -/
theorem test_pmul : window ((result (exec (.pmul 2 0 0) (load idleNtt 0 [1, 1]))).slot 2) 0 4 = [18, 2, 0, 0] := by
  decide +kernel
/-- V-PW-9: accumulator and sources from one snapshot. -/
theorem test_pmac_snapshot :
    window ((result (exec (.pmac 0 0 0) (load idleNtt 0 [0, 1, 0, 1]))).slot 0) 0 4 = [17, 1, 3312, 1] := by
  decide +kernel
/-- V-ERR-11: a NORMAL accumulator. -/
theorem test_pmac_domain : (result (exec (.pmac 0 1 2) (idleNtt.setTag 0 .normal))).errCode = .domain := by
  decide +kernel
/-- V-HK-2. -/
theorem test_pcopy : window ((result (exec (.pcopy 7 4) (load idleNtt 4 [9, 8]))).slot 7) 0 3 = [9, 8, 0] ∧
    (result (exec (.pcopy 7 4) (idle.setTag 4 .ntt))).tag 7 = .ntt := by decide +kernel
/-- V-HK-4. -/
theorem test_pzero : window ((result (exec (.pzero 5 .ntt) (load idle 5 [3, 4]))).slot 5) 0 3 = [0, 0, 0] ∧
    (result (exec (.pzero 5 .ntt) idle)).tag 5 = .ntt := by decide +kernel
/-- V-HK-6. -/
theorem test_settag : window ((result (exec (.settag 2 .ntt) (load idle 2 [5]))).slot 2) 0 2 = [5, 0] ∧
    (result (exec (.settag 2 .ntt) idle)).tag 2 = .ntt := by decide +kernel
/-- V-HK-7. -/
theorem test_clrall : window ((result (exec .clrall (load idleNtt 31 [5]))).slot 31) 0 2 = [0, 0] ∧
    (result (exec .clrall idleNtt)).tagsWord = 0 := by decide +kernel
/-- V-VEC-2: partial overlap reads the snapshot. -/
theorem test_vadd_snapshot : (List.map (fun e => window ((result (exec (.vadd 1 0 0)
    (load (load (load idle 0 [1]) 1 [2]) 2 [3]))).slot e) 0 1) [0, 1, 2, 3]) = [[1], [2], [4], [6]] := by
  decide +kernel
/-- V-VEC-12: SLOT_RANGE. -/
theorem test_vadd_range : ((result (exec (.vadd 30 0 3) idle)).statusWord, (result (exec (.vadd 30 0 3) idle)).errInfo) =
    (0x34, 0x03001E11) := by decide +kernel
/-- V-VEC-3, with K = 2. -/
theorem test_vsub_k2 : window ((result (exec (.vsub 4 0 2) (load (load
    { idleNtt with build := { rank := .two, basePage := 0 } } 1 [5]) 3 [6]))).slot 5) 0 2 = [3328, 0] := by
  decide +kernel
/-- V-VEC-4: the last element, X^2. -/
theorem test_vntt : window ((result (exec (.vntt 0 0) (load idle 2 [0, 0, 1]))).slot 2) 0 5 = [17, 0, 3312, 0, 2761] := by
  decide +kernel
/-- V-VEC-5. -/
theorem test_vintt : window ((result (exec (.vintt 6 4) (load idleNtt 5 (List.replicate 256 1)))).slot 7) 0 3 =
    [1, 1, 0] := by decide +kernel
/-- V-VEC-6. -/
theorem test_vpmul : window ((result (exec (.vpmul 3 0 0) (load idleNtt 1 [0, 1, 0, 1]))).slot 4) 0 4 =
    [17, 0, 3312, 0] := by decide +kernel
/-- V-VEC-7 on its first two pairs. -/
theorem test_vdot : window ((result (exec (.vdot 9 0 3) (load (load (load (load (load (load idleNtt 0 [1, 0, 1, 0])
    1 [0, 1, 0, 1]) 2 [17, 0, 3312, 0]) 3 [0, 1, 0, 1]) 4 [0, 1, 0, 1]) 5 [1, 0, 1, 0]))).slot 9) 0 4 =
    [34, 1, 3295, 1] := by decide +kernel
/-- V-VEC-15: RD of VDOT is never range-checked. -/
theorem test_vdot_destination : (result (exec (.vdot 31 29 29) idle)).errCode = .domain ∧
    (result (exec (.vdot 31 29 29) idleNtt)).tag 31 = .ntt := by decide +kernel

/-! ### The window and the engine (95_test_vectors.md 2.7, 2.8) -/

/-- One host write from `s`. -/
def wrote (s : State) (off : Nat) (v : Word) : State :=
  result (step { s with events := [hostW s.build off v] })

/-- The value one host read from `s` answers. -/
def readBack (s : State) (off : Nat) : Word := (result (step { s with events := [hostR s.build off] })).rdata

/-- The engine's turn from `s`. -/
def turn (s : State) : State := result (step { s with events := [.engine] })

/-- V-REG-4: zeroization leaves STATUS 0. -/
theorem test_zeroization : State.reset.statusWord = 1 ∧ (turn State.reset).statusWord = 0 := by decide +kernel
/-- V-ERR-1. -/
theorem test_illegal_write : ((wrote idle 0x00C 0x07).statusWord, (wrote idle 0x00C 0x07).errInfo,
    (wrote idle 0x00C 0x07).lastCmd) = (0x14, 0x07, 0) := by decide +kernel
/-- V-ERR-14: CMD_BUSY does not cancel the pending command. -/
theorem test_cmd_busy : (wrote (wrote idle 0x00C 0) 0x00C 0x108).statusWord = 0x55 ∧
    (turn (wrote (wrote idle 0x00C 0) 0x00C 0x108)).statusWord = 0x56 := by decide +kernel
/-- V-ERR-15. -/
theorem test_win_range : ((wrote (wrote idle 0x010 3) 0x404 3329).statusWord,
    (wrote (wrote idle 0x010 3) 0x404 3329).errInfo) = (0x64, 0x00030404) := by decide +kernel
/-- V-ERR-18. -/
theorem test_winsel_busy : ((wrote (wrote idle 0x00C 0) 0x010 7).statusWord,
    (wrote (wrote idle 0x00C 0) 0x010 7).errInfo) = (0x75, 0x10) := by decide +kernel
/-- V-ERR-20. -/
theorem test_w1c_err : (wrote (wrote idle 0x00C 0x07) 0x008 4).statusWord = 0 := by decide +kernel
/-- V-ERR-21: the window works while ERR = 1. -/
theorem test_window_with_err : readBack (wrote (wrote idle 0x00C 0x07) 0x400 9) 0x400 = 9 := by decide +kernel
/-- V-REG-1: IRQ is 0 while the NOP is pending and 1 after it. -/
theorem test_irq : (wrote (wrote idle 4 1) 0x00C 0).irq = false ∧ (turn (wrote (wrote idle 4 1) 0x00C 0)).irq = true := by
  decide +kernel
/-- V-REG-3: SRST aborts the pending command. -/
theorem test_soft_reset : (wrote (wrote (wrote idle 4 1) 0x00C 3) 4 2).statusWord = 1 ∧
    (wrote (wrote (wrote idle 4 1) 0x00C 3) 4 2).pend.valid = false := by decide +kernel
/-- V-BUS-1, V-BUS-3, V-ID-2. -/
theorem test_reads : readBack idle 0x402 = 0 ∧ readBack idle 0x01C = 0 ∧ readBack idle 0xFFC = 0 ∧
    readBack idle 0x000 = 0x15380D01 := by decide +kernel
/-- V-BUS-2: a byte write to CTRL. -/
theorem test_byte_write : (result (step { idle with events := [.access (.write 4 1 1)] })).irqEn = false := by
  decide +kernel
/-- TAGS bit e is T[e] (10_state.md R35). -/
theorem test_tags : readBack (idle.setTag 31 .ntt) 0x014 = 0x80000000 := by decide +kernel
theorem test_host_notation : (hostLoadp State.reset.build 9 [7]).length = 257 ∧
    (hostStorep State.reset.build 9).length = 257 ∧ (hostWait State.reset.build).length = 2 ∧
    hostCmd State.reset.build (.pntt 9 9) = hostW State.reset.build 0x00C 0x00090903 ∧ pollDone 0x56 1 0 = true := by
  decide +kernel

/-! ### Witnesses: each statement's hypotheses are met -/

theorem idle_canonical : Canonical idle := fun e j => by
  simp [idle, State.reset, State.slot]

theorem idleNtt_canonical : Canonical idleNtt := fun e j => by
  simp [idleNtt, idle, State.reset, State.slot]

/-- A NOP is pending. -/
def pendingNop : State := { idle with pend := { valid := true, word := 0 } }

theorem idle_inv : Inv idle :=
  ⟨idle_canonical, fun h => by simp [idle, State.reset] at h, fun h => by simp [idle, State.reset] at h,
    ⟨fun _ => ⟨rfl, rfl⟩, fun h => by simp [idle, State.reset] at h⟩, fun h => by simp [idle, State.reset, State.busy] at h,
    fun h => by simp [idle, State.reset] at h⟩

theorem pendingNop_inv : Inv pendingNop :=
  ⟨idle_canonical, fun _ => ⟨rfl, .nop, by decide, rfl, rfl⟩, fun h => by simp [pendingNop, idle] at h,
    ⟨fun _ => ⟨rfl, rfl⟩, fun h => by simp [pendingNop, idle, State.reset] at h⟩, fun _ => rfl,
    fun h => by simp [pendingNop, idle, State.reset] at h⟩

theorem zero_canonical : CanonicalElem ringZero := fun j => by simp [ringZero]

theorem witness_EncodeDecodeRoundTrip : decode 0x1F1F1F16 = .command (.vdot 31 31 31) := by decide
/-- The lowest and highest opcode of each illegal range, and the next legal ones. -/
theorem witness_IllegalOpcodeRejected : decode 0x0C = .illegal ∧ decode 0x10 = .illegal ∧ decode 0x17 = .illegal ∧
    decode 0xFF = .illegal ∧ decode 0x0B ≠ .illegal ∧ decode 0x11 ≠ .illegal ∧ decode 0x16 ≠ .illegal ∧
    idle.rst = false ∧ idle.err = false ∧ idle.busy = false := by decide +kernel
/-- One word of each mask clause. -/
theorem witness_ReservedBitsRejected : decode 0x80000000 = .reserved ∧ decode 0x0002000A = .reserved ∧
    decode 0x00200003 = .reserved ∧ decode 0x20000001 = .reserved ∧
    idle.rst = false ∧ idle.err = false ∧ idle.busy = false := by decide +kernel
theorem witness_BarrettExact : 67108863 < 2 ^ 26 ∧ 77517489 < 77517490 ∧ 77519093 < 77519094 := by decide
theorem witness_ModularOpsExact : (3328 : Coeff).toNat < 3329 ∧ (0 : Coeff).toNat < 3329 := by decide
theorem witness_ModularLaws : (3328 : Coeff).toNat < 3329 ∧ (1 : Coeff).toNat < 3329 ∧ (1664 : Coeff).toNat < 3329 := by
  decide
theorem witness_canonical_operands : CanonicalElem ringZero ∧ (3328 : Coeff).toNat < 3329 :=
  ⟨zero_canonical, by decide⟩
theorem witness_NttMatchesLoop : CanonicalElem ringZero := zero_canonical
theorem witness_InttMatchesLoop : (2 ∈ [2, 4, 8, 16, 32, 64, 128] ∧ 63 < 128 / 2) ∧ 0 < 128 / 128 := by decide
theorem witness_InverseLaw : CanonicalElem ringZero := zero_canonical
theorem witness_NttResidues : CanonicalElem ringZero := zero_canonical
theorem witness_NegacyclicProduct : CanonicalElem ringZero ∧ (3328 : Coeff).toNat < 3329 :=
  ⟨zero_canonical, by decide⟩
theorem witness_BaseMulFormula : CanonicalElem ringZero := zero_canonical
theorem witness_NttAdditive : CanonicalElem ringZero := zero_canonical

/-- An open gate, for `Accepted` and `Raises`; a held error; a busy gate; a pending word at the engine; a must-be-zero
bit under each mask beside its opcode: the hypotheses inside `IssuedLikeEveryCommand`. -/
theorem witness_IssuedLikeEveryCommand : idle.err = false ∧ idle.busy = false ∧ (wrote idle 0x00C 0x07).err = true ∧
    pendingNop.err = false ∧ pendingNop.busy = true ∧ pendingNop.rst = false ∧
    pendingNop.pend = { valid := true, word := 0 } ∧
    (0x80000001 : Word).extractLsb' 0 8 = (1 : Word).extractLsb' 0 8 ∧ (0x80000001 : Word) &&& 0xE0E0E000 ≠ 0 := by
  decide +kernel
theorem witness_NopRule : idle.err = false ∧ idle.busy = false := by decide
theorem witness_PaddRule : idle.tag 0 = idle.tag 31 ∧ Canonical idle ∧ (idle.setTag 1 .ntt).tag 0 ≠
    (idle.setTag 1 .ntt).tag 1 := ⟨by decide +kernel, idle_canonical, by decide +kernel⟩
theorem witness_PsubRule : idle.tag 0 = idle.tag 31 ∧ Canonical idle ∧ (idle.setTag 1 .ntt).tag 0 ≠
    (idle.setTag 1 .ntt).tag 1 := ⟨by decide +kernel, idle_canonical, by decide +kernel⟩
theorem witness_PnttRule : idle.tag 31 = .normal ∧ idleNtt.tag 31 ≠ .normal := by decide +kernel
theorem witness_PinttRule : idleNtt.tag 31 = .ntt ∧ idle.tag 31 ≠ .ntt := by decide +kernel
theorem witness_PmulRule : (idleNtt.tag 0 = .ntt ∧ idleNtt.tag 31 = .ntt) ∧ Canonical idleNtt ∧
    ¬(idle.tag 0 = .ntt ∧ idle.tag 31 = .ntt) := ⟨by decide +kernel, idleNtt_canonical, by decide +kernel⟩
theorem witness_PmacRule : (idleNtt.tag 0 = .ntt ∧ idleNtt.tag 31 = .ntt ∧ idleNtt.tag 2 = .ntt) ∧ Canonical idleNtt ∧
    ¬(idle.tag 0 = .ntt ∧ idle.tag 31 = .ntt ∧ idle.tag 2 = .ntt) :=
  ⟨by decide +kernel, idleNtt_canonical, by decide +kernel⟩
theorem witness_PcopyRule : (31 : Slot) = 31 ∧ idle.err = false ∧ idle.busy = false := by decide
/-- The highest legal base and the lowest illegal one for K = 3, equal tags, and one unequal pair. -/
theorem witness_VaddRule : BaseLegal idle 29 ∧ ¬BaseLegal idle 30 ∧ Canonical idle ∧
    (∀ i < idle.k, idle.tag (vecElem 0 i) = idle.tag (vecElem 3 i)) ∧
    (∃ i < idle.k, (idle.setTag 2 .ntt).tag (vecElem 0 i) ≠ (idle.setTag 2 .ntt).tag (vecElem 3 i)) :=
  ⟨by unfold BaseLegal; decide, by unfold BaseLegal; decide, idle_canonical, by decide +kernel, ⟨2, by decide +kernel⟩⟩
theorem witness_VsubRule : BaseLegal idle 29 ∧ ¬BaseLegal idle 30 ∧ Canonical idle ∧
    (∀ i < idle.k, idle.tag (vecElem 0 i) = idle.tag (vecElem 3 i)) ∧
    (∃ i < idle.k, (idle.setTag 2 .ntt).tag (vecElem 0 i) ≠ (idle.setTag 2 .ntt).tag (vecElem 3 i)) :=
  ⟨by unfold BaseLegal; decide, by unfold BaseLegal; decide, idle_canonical, by decide +kernel, ⟨2, by decide +kernel⟩⟩
theorem witness_VnttRule : (∀ i < idle.k, idle.tag (vecElem 29 i) = .normal) ∧
    (∃ i < idleNtt.k, idleNtt.tag (vecElem 29 i) ≠ .normal) := ⟨by decide +kernel, ⟨2, by decide +kernel⟩⟩
theorem witness_VinttRule : (∀ i < idleNtt.k, idleNtt.tag (vecElem 29 i) = .ntt) ∧
    (∃ i < idle.k, idle.tag (vecElem 29 i) ≠ .ntt) := ⟨by decide +kernel, ⟨2, by decide +kernel⟩⟩
theorem witness_VpmulRule : Canonical idleNtt ∧
    (∀ i < idleNtt.k, idleNtt.tag (vecElem 29 i) = .ntt ∧ idleNtt.tag (vecElem 0 i) = .ntt) ∧
    (∃ i < idle.k, ¬(idle.tag (vecElem 29 i) = .ntt ∧ idle.tag (vecElem 0 i) = .ntt)) :=
  ⟨idleNtt_canonical, by decide +kernel, ⟨2, by decide +kernel⟩⟩
theorem witness_VdotRule : BaseLegal idleNtt 29 ∧ ¬BaseLegal idleNtt 30 ∧ Canonical idleNtt ∧
    (∀ i < idleNtt.k, idleNtt.tag (vecElem 29 i) = .ntt ∧ idleNtt.tag (vecElem 0 i) = .ntt) :=
  ⟨by unfold BaseLegal; decide, by unfold BaseLegal; decide, idleNtt_canonical, by decide +kernel⟩
theorem witness_MacChainEqualsDot : BaseLegal idleNtt 0 ∧ BaseLegal idleNtt 29 ∧
    (∀ i < idleNtt.k, idleNtt.tag (vecElem 0 i) = .ntt ∧ idleNtt.tag (vecElem 29 i) = .ntt) ∧
    (3 : Slot) ∉ vecSlots idleNtt 0 ∧ (3 : Slot) ∉ vecSlots idleNtt 29 :=
  ⟨by unfold BaseLegal; decide, by unfold BaseLegal; decide, by decide +kernel, by decide +kernel, by decide +kernel⟩
theorem witness_StepRunsPendingCommand : ({ pendingNop with events := [.engine] } : State).events = .engine :: [] ∧
    pendingNop.events = [] ∧ pendingNop.rst = false ∧ pendingNop.pend.valid = true ∧
    decode pendingNop.pend.word = .command .nop ∧ exec .nop pendingNop = .next pendingNop ∧
    (State.reset.pend.valid = false ∧ State.reset.clr = true ∧ State.reset.rst = false) ∧
    idle.pend.valid = false ∧ idle.clr = false ∧ idle.rst = false :=
  ⟨rfl, rfl, rfl, rfl, by decide, rfl, ⟨rfl, rfl, rfl⟩, rfl, rfl, rfl⟩
/-- The first address past the window. -/
theorem witness_StepTakesEventsInOrder : idle.build.base + 4096 ≤ 4096 ∧
    ({ idle with events := [.access (.read 4096 4)] } : State).events = .access (.read 4096 4) :: [] := ⟨by decide, rfl⟩
/-- The gate held by an error, busy, and open with an illegal, a reserved, an out-of-range, a wrong-domain and a good
word. -/
theorem witness_CmdWriteGate : idle.rst = false ∧ idle.err = false ∧ idle.busy = false ∧
    (wrote idle 0x00C 0x07).err = true ∧ (pendingNop.err = false ∧ pendingNop.busy = true) ∧
    decode 0x07 = .illegal ∧ decode 0x2001 = .reserved ∧
    decode 0x03001E11 = .command (.vadd 30 0 3) ∧ rangeOk idle.k (.vadd 30 0 3) = false ∧
    decode 0x00010204 = .command (.pintt 2 1) ∧ rangeOk idle.k (.pintt 2 1) = true ∧ domainOk idle (.pintt 2 1) = false ∧
    decode 0x00010203 = .command (.pntt 2 1) ∧ domainOk idle (.pntt 2 1) = true := by decide +kernel
theorem witness_RecordFirstErrorWins : idle.err = false ∧ (idle.record .domain 5).err = true ∧
    ∃ t, step (idle.record .domain 5) = .next t := ⟨by decide, by decide, _, rfl⟩
theorem witness_StatusWriteClears : idle.rst = false ∧ (4 : Word).getLsbD 2 = true ∧ idle.busy = false ∧
    rangeOk idle.k .nop = true ∧ domainOk idle .nop = true := by decide
/-- A state in which an error arises, at CMD, at the window's last word and at WINSEL; none at 0x401. -/
theorem witness_ErrorsOnlyFromCmdAndWindowWrites : Inv { idle with events := [hostW idle.build 0x7FC 3329] } ∧
    idle.err = false ∧ (wrote idle 0x7FC 3329).err = true ∧ (wrote idle 0x00C 0x07).err = true ∧
    (wrote pendingNop 0x010 7).err = true ∧ (wrote idle 0x401 3329).err = false :=
  ⟨⟨idle_canonical, idle_inv.pendingChecked, idle_inv.onePending, idle_inv.errorRecord, idle_inv.doneClear,
    idle_inv.heldInReset⟩, rfl, by decide +kernel⟩
theorem witness_ErrorsIgnoreCoefficients : idle.build = (load idle 0 [1]).build ∧ idle.tags = (load idle 0 [1]).tags ∧
    idle.busy = (load idle 0 [1]).busy ∧ idle.err = false ∧ (load idle 0 [1]).err = false ∧
    (idle.onCmdWrite 0x07).err = true := ⟨rfl, rfl, rfl, rfl, rfl, by decide +kernel⟩
/-- Busy; open at the smallest value refused; open at the largest value stored. -/
theorem witness_WindowWrite : idle.rst = false ∧ pendingNop.busy = true ∧ idle.busy = false ∧
    3329 ≤ (3329 : Word).toNat ∧ (3328 : Word).toNat < 3329 := by decide
theorem witness_WindowRead : idle.rst = false ∧ pendingNop.rst = false ∧ pendingNop.busy = true ∧ idle.busy = false := by
  decide
theorem witness_WinselAccess : idle.rst = false ∧ pendingNop.rst = false ∧ pendingNop.busy = true ∧
    idle.busy = false := by decide
theorem witness_CtrlWriteAndSoftReset : pendingNop.rst = false ∧ (1 : Word).getLsbD 1 = false ∧
    (3 : Word).getLsbD 1 = true := by decide
theorem witness_HardReset : pendingNop.rst = false ∧ 4095 < 4096 := by decide
theorem witness_NonWordAccessIgnored : 4095 < 4096 ∧ ((1 : Nat) ≠ 4 ∨ 4095 % 4 ≠ 0) ∧ ((4 : Nat) ≠ 4 ∨ 0x402 % 4 ≠ 0) := by
  decide
/-- The ends of both reserved ranges. -/
theorem witness_ReservedOffsets : idle.rst = false ∧ 0x01C % 4 = 0 ∧ 0x3FC % 4 = 0 ∧ 0x800 % 4 = 0 ∧ 0xFFC % 4 = 0 ∧
    (0x01C ≤ 0x01C ∧ 0x01C ≤ 0x3FC) ∧ (0x01C ≤ 0x3FC ∧ 0x3FC ≤ 0x3FC) ∧ (0x800 ≤ 0x800 ∧ 0x800 ≤ 0xFFC) ∧
    (0x800 ≤ 0xFFC ∧ 0xFFC ≤ 0xFFC) ∧ (0xFFFFFFFF : Word) &&& ~~~0xFFFFFFFC = 3 &&& ~~~0xFFFFFFFC ∧
    (0xFFFFFFFF : Word) &&& ~~~0xFFFFFFF9 = 6 &&& ~~~0xFFFFFFF9 ∧
    (0xFFFFFFFF : Word) &&& ~~~0xFFFFFFE0 = 0x1F &&& ~~~0xFFFFFFE0 := by decide
theorem witness_RegisterReadValues : idle.rst = false ∧ idle.busy = false ∧ pendingNop.busy = true := by decide
theorem witness_BusyHazard : pendingNop.rst = false ∧ pendingNop.busy = true ∧ pendingNop.err = false ∧
    State.reset.busy = true := by decide
theorem witness_BusyHidesSlotFile : pendingNop.busy = true := by decide
theorem witness_InvKeptByStep : Inv pendingNop ∧ ∃ t, step pendingNop = .next t := ⟨pendingNop_inv, _, rfl⟩
theorem witness_StepNeverStops : Inv pendingNop := pendingNop_inv
theorem witness_BuildNeverChanges : ∃ t, step pendingNop = .next t := ⟨_, rfl⟩
theorem witness_SoftResetErasesPending : Inv pendingNop ∧ pendingNop.rst = false := ⟨pendingNop_inv, rfl⟩

end Sys2Proof.Tests
end

namespace Sys2Proof.Proofs

open Sys2Proof.Machine Sys2Proof.Safety Sys2Proof.Laws

/-! ### Shared rules of the register window -/

/-- Every reserved offset reaches no register (10_state.md R27). -/
theorem regAt_reserved (off : Nat) (h : 0x01C ≤ off ∧ off ≤ 0x3FC ∨ 0x800 ≤ off ∧ off ≤ 0xFFC) :
    regAt off = .reserved := by
  unfold regAt
  rw [if_neg (by omega), if_neg (by omega), if_neg (by omega), if_neg (by omega), if_neg (by omega),
    if_neg (by omega), if_neg (by omega), if_neg (by omega)]

/-- Two words that a register takes alike lead a host write to the same states. -/
theorem hostWrites_congr {s t : State} {off : Nat} {v v' : Word} (ho : off < 4096) (ha : off % 4 = 0)
    (hr : s.rst = false) (hv : s.writeReg (regAt off) v = s.writeReg (regAt off) v') (h : HostWrites s off v t) :
    HostWrites s off v' t := fun rest => by
  have hstep := hostWrites_intro s off v ho ha hr rest
  rw [hv, ← hostWrites_intro s off v' ho ha hr rest] at hstep
  exact hstep ▸ h rest

/-- Recording an error is the raising that the statements speak of (60_exceptions.md R222, R223). -/
theorem raisedFrom_record (c : ErrCode) (w : Word) (s : State) : RaisedFrom c w s (s.record c w) :=
  ⟨record_of_err s c w, record_of_no_err s c w⟩

/-- Words that agree under a mask agree in each of the mask's bits. -/
theorem getLsbD_eq_of_and_eq {v v' m : Word} (h : v &&& m = v' &&& m) {i : Nat} (hi : m.getLsbD i = true) :
    v.getLsbD i = v'.getLsbD i := by
  have hbit := congrArg (·.getLsbD i) h
  simpa [hi] using hbit

/-- A word that is 0 in each of the mask's bits is 0 under the mask. -/
theorem and_eq_zero_of_getLsbD {w m : Word} (h : ∀ i < 32, m.getLsbD i = true → w.getLsbD i = false) :
    w &&& m = 0 :=
  BitVec.eq_of_getLsbD_eq fun i hi => by
    rw [BitVec.getLsbD_and]
    cases hm : m.getLsbD i with
    | false => simp
    | true => simp [h i hi hm]

/-! ### WINSEL (10_state.md R34) -/

theorem onWinselWrite_of_busy (s : State) (w : Word) (h : s.busy = true) :
    s.onWinselWrite w = s.record .winBusy 0x00000010 := by
  simp [State.onWinselWrite, State.winBusyError, h]

theorem onWinselWrite_of_not_busy (s : State) (w : Word) (h : s.busy = false) :
    s.onWinselWrite w = { s with winsel := slotOfBits (w.extractLsb' 0 5) } := by
  simp [State.onWinselWrite, h]

theorem slotOfBits_low_val (w : Word) : (slotOfBits (w.extractLsb' 0 5)).val = w.toNat % 32 := by
  simp [slotOfBits]

/-- A WINSEL write looks at bits [4:0] alone. -/
theorem onWinselWrite_congr (s : State) {v v' : Word} (h : ∀ i < 5, v.getLsbD i = v'.getLsbD i) :
    s.onWinselWrite v = s.onWinselWrite v' := by
  have hslot : v.extractLsb' 0 5 = v'.extractLsb' 0 5 :=
    BitVec.eq_of_getLsbD_eq fun i hi => by simpa [hi] using h i hi
  unfold State.onWinselWrite
  rw [hslot]

theorem winsel_reserved_bits (e : Slot) : BitVec.ofNat 32 e.val &&& 0xFFFFFFE0 = 0 := by
  revert e; decide

/-- Settles O45: the write by the two levels of BUSY. -/
theorem winselAccess : Obligations.WinselAccess := by
  intro s v hr
  refine ⟨hostReads_intro s 0x010 (by decide) rfl hr, s.onWinselWrite v, hostWrites_intro s 0x010 v (by decide) rfl hr,
    fun hb => ?_, fun hb => ?_⟩
  · rw [onWinselWrite_of_busy s v hb]
    exact raisedFrom_record _ _ s
  · rw [onWinselWrite_of_not_busy s v hb]
    exact ⟨rfl, slotOfBits_low_val v⟩

/-! ### CTRL and the soft reset (10_state.md R31; 70_reset_and_hazards.md R261) -/

theorem ctrlWord_eq (s : State) : s.ctrlWord = if s.irqEn then 1 else 0 := by
  unfold State.ctrlWord; cases s.irqEn <;> rfl

theorem onCtrlWrite_of_srst (s : State) (w : Word) (h : w.getLsbD 1 = true) : s.onCtrlWrite w = s.resetEvent := by
  rw [State.onCtrlWrite, if_pos h]

theorem onCtrlWrite_of_no_srst (s : State) (w : Word) (h : w.getLsbD 1 = false) :
    s.onCtrlWrite w = { s with irqEn := w.getLsbD 0 } := by
  rw [State.onCtrlWrite, h]; rfl

/-- A CTRL write looks at bits [1:0] alone. -/
theorem onCtrlWrite_congr (s : State) {v v' : Word} (h0 : v.getLsbD 0 = v'.getLsbD 0)
    (h1 : v.getLsbD 1 = v'.getLsbD 1) : s.onCtrlWrite v = s.onCtrlWrite v' := by
  unfold State.onCtrlWrite
  rw [h0, h1]

theorem resetFrom_resetEvent (s : State) : ResetFrom s s.resetEvent := rfl

/-- With RST released, the engine's turn after a reset event is the zeroization (10_state.md R40, R42). -/
theorem takes_engine_resetEvent (s : State) (hr : s.rst = false) :
    Takes s.resetEvent .engine (zeroized s.resetEvent) :=
  takes_engine_intro _ _ (by simp [State.engineStep, hr]; rfl)

/-- Settles O46: the write by the two levels of SRST. -/
theorem ctrlWriteAndSoftReset : Obligations.CtrlWriteAndSoftReset := by
  intro s v hr
  refine ⟨ctrlWord_eq s ▸ hostReads_intro s 0x004 (by decide) rfl hr, s.onCtrlWrite v,
    hostWrites_intro s 0x004 v (by decide) rfl hr, onCtrlWrite_of_no_srst s v, fun h => ?_⟩
  rw [onCtrlWrite_of_srst s v h]
  exact ⟨resetFrom_resetEvent s, hr, takes_engine_resetEvent s hr⟩

/-! ### The fields of STATUS, ID and TAGS (10_state.md R30, R32, R35) -/

/-- The sizes of the STATUS fields as numbers. -/
theorem statusFields_lt (s : State) :
    s.busy.toNat < 2 ∧ s.done.toNat < 2 ∧ s.err.toNat < 2 ∧ s.errCode.toNat < 8 :=
  ⟨s.busy.toNat_lt, s.done.toNat_lt, s.err.toNat_lt, by cases s.errCode <;> decide⟩

/-- STATUS as a number: nothing wraps (10_state.md R32). -/
theorem toNat_statusWord (s : State) :
    s.statusWord.toNat = s.busy.toNat + 2 * s.done.toNat + 4 * s.err.toNat + 16 * s.errCode.toNat := by
  obtain ⟨hb, hd, he, hc⟩ := statusFields_lt s
  rw [State.statusWord, BitVec.toNat_ofNat]
  omega

/-- A bit of a word, from the word as a number. -/
theorem getLsbD_eq_of_div_mod {w : Word} {i : Nat} {b : Bool} (h : w.toNat / 2 ^ i % 2 = b.toNat) :
    w.getLsbD i = b := by
  rw [BitVec.getLsbD, Nat.testBit_eq_decide_div_mod_eq, h]
  cases b <;> rfl

/-- The one-bit fields of STATUS, and its reserved bit 3. -/
theorem statusWord_bits (s : State) :
    s.statusWord.getLsbD 0 = s.busy ∧ s.statusWord.getLsbD 1 = s.done ∧ s.statusWord.getLsbD 2 = s.err ∧
      s.statusWord.getLsbD 3 = false := by
  obtain ⟨hb, hd, he, -⟩ := statusFields_lt s
  have hn := toNat_statusWord s
  exact ⟨getLsbD_eq_of_div_mod (by omega), getLsbD_eq_of_div_mod (by omega), getLsbD_eq_of_div_mod (by omega),
    getLsbD_eq_of_div_mod (by rw [Bool.toNat_false]; omega)⟩

theorem statusWord_errCode (s : State) : s.statusWord.extractLsb' 4 4 = BitVec.ofNat 4 s.errCode.toNat := by
  obtain ⟨hb, hd, he, -⟩ := statusFields_lt s
  apply BitVec.eq_of_toNat_eq
  rw [BitVec.extractLsb'_toNat, toNat_statusWord, BitVec.toNat_ofNat, Nat.shiftRight_eq_div_pow]
  omega

theorem statusWord_lt (s : State) : s.statusWord.toNat < 2 ^ 8 := by
  obtain ⟨hb, hd, he, hc⟩ := statusFields_lt s
  rw [toNat_statusWord]
  omega

theorem statusWord_high (s : State) : s.statusWord.extractLsb' 8 24 = 0 := by
  apply BitVec.eq_of_toNat_eq
  rw [BitVec.extractLsb'_toNat, Nat.shiftRight_eq_div_pow, Nat.div_eq_of_lt (statusWord_lt s)]
  rfl

/-- The reserved bits of STATUS, [3] and [31:8], read 0. -/
theorem statusWord_reserved_bits (s : State) : s.statusWord &&& 0xFFFFFF08 = 0 := by
  have hmask : ∀ i < 32, (0xFFFFFF08 : Word).getLsbD i = true → i = 3 ∨ 8 ≤ i := by decide
  obtain ⟨-, -, -, hbit3⟩ := statusWord_bits s
  refine and_eq_zero_of_getLsbD fun i hi hm => ?_
  rcases hmask i hi hm with rfl | h8
  · exact hbit3
  · exact Nat.testBit_lt_two_pow ((statusWord_lt s).trans_le (Nat.pow_le_pow_right (by decide) h8))

/-- A STATUS write looks at bits [2:1] alone. -/
theorem onStatusWrite_congr (s : State) {v v' : Word} (h1 : v.getLsbD 1 = v'.getLsbD 1)
    (h2 : v.getLsbD 2 = v'.getLsbD 2) : s.onStatusWrite v = s.onStatusWrite v' := by
  unfold State.onStatusWrite
  rw [h1, h2]

/-- The three values of ID (10_state.md R30). -/
theorem idWord_cases (b : Build) :
    (b.rank = .two ∧ idWord b = 0x15280D01) ∨ (b.rank = .three ∧ idWord b = 0x15380D01) ∨
      (b.rank = .four ∧ idWord b = 0x15480D01) := by
  unfold idWord
  cases b.rank <;> decide

/-- TAGS as a number is made of the tag bits (10_state.md R35). -/
theorem tagsWord_eq_ofBits (s : State) : s.tagsWord = BitVec.ofNat 32 (Nat.ofBits fun e : Slot => s.tag e == .ntt) := by
  have hbit : ∀ e : Slot, (s.tags[e]).toNat = (s.tag e == .ntt).toNat := fun e => by
    show (s.tag e).toNat = _
    cases s.tag e <;> rfl
  rw [State.tagsWord, Nat.ofBits, Fin.foldr_eq_foldr_finRange]
  simp only [hbit, Nat.add_comm]

theorem tagsWord_getLsbD (s : State) (e : Slot) : s.tagsWord.getLsbD e.val = true ↔ s.tag e = .ntt := by
  rw [tagsWord_eq_ofBits, BitVec.getLsbD_ofNat, Nat.testBit_ofBits_lt _ _ e.isLt]
  simp

/-- Settles O51: each register's word read field by field. -/
theorem registerReadValues : Obligations.RegisterReadValues := by
  intro s hr
  have hread : ∀ off < 4096, off % 4 = 0 → HostReads s off (s.readReg (regAt off)) :=
    fun off ho ha => hostReads_intro s off ho ha hr
  obtain ⟨hbusy, hdone, herr, hbit3⟩ := statusWord_bits s
  refine ⟨?_, hread 0x00C (by decide) rfl, hread 0x018 (by decide) rfl, ?_, ?_, ?_⟩
  · have hid : HostReads s 0x000 (idWord s.build) := hread 0x000 (by decide) rfl
    rcases idWord_cases s.build with ⟨hk, hw⟩ | ⟨hk, hw⟩ | ⟨hk, hw⟩ <;> rw [hk] <;> exact hw ▸ hid
  · refine ⟨s.statusWord, hread 0x008 (by decide) rfl, hbusy, hdone, herr, hbit3, statusWord_high s, ?_⟩
    rw [statusWord_errCode]
    cases s.errCode <;> rfl
  · refine ⟨s.readReg .tags, hread 0x014 (by decide) rfl, fun hb => ?_, fun hb e => ?_⟩
    · rw [State.readReg, if_pos hb]
    · rw [State.readReg, if_neg (by simp [hb]), tagsWord_getLsbD]
  · intro off hoff v
    simp only [List.mem_cons, List.not_mem_nil, or_false] at hoff
    rcases hoff with rfl | rfl | rfl
    · exact hostWrites_intro s 0x000 v (by decide) rfl hr
    · exact hostWrites_intro s 0x014 v (by decide) rfl hr
    · exact hostWrites_intro s 0x018 v (by decide) rfl hr

/-! ### Reserved offsets and fields (10_state.md R27) -/

theorem ctrlWord_reserved_bits (s : State) : s.ctrlWord &&& 0xFFFFFFFC = 0 := by
  rw [ctrlWord_eq]; cases s.irqEn <;> rfl

/-- Settles O50: a reserved offset reaches no register, and each register with reserved fields reads them as 0 and
writes by its other bits alone. -/
theorem reservedOffsets : Obligations.ReservedOffsets := by
  refine ⟨fun s off v hr ha hres => ?_, fun s v v' hr row hrow => ?_⟩
  · have ho : off < 4096 := by omega
    have hread := hostReads_intro s off ho ha hr
    have hwrite := hostWrites_intro s off v ho ha hr
    rw [regAt_reserved off hres] at hread hwrite
    exact ⟨hread, hwrite⟩
  · simp only [List.mem_cons, List.not_mem_nil, or_false] at hrow
    rcases hrow with rfl | rfl | rfl
    · refine ⟨⟨s.ctrlWord, hostReads_intro s 0x004 (by decide) rfl hr, ctrlWord_reserved_bits s⟩, fun hv t => ?_⟩
      exact hostWrites_congr (by decide) rfl hr
        (onCtrlWrite_congr s (getLsbD_eq_of_and_eq hv (by decide)) (getLsbD_eq_of_and_eq hv (by decide)))
    · refine ⟨⟨s.statusWord, hostReads_intro s 0x008 (by decide) rfl hr, statusWord_reserved_bits s⟩, fun hv t => ?_⟩
      exact hostWrites_congr (by decide) rfl hr
        (onStatusWrite_congr s (getLsbD_eq_of_and_eq hv (by decide)) (getLsbD_eq_of_and_eq hv (by decide)))
    · refine ⟨⟨_, hostReads_intro s 0x010 (by decide) rfl hr, winsel_reserved_bits s.winsel⟩, fun hv t => ?_⟩
      have hmask : ∀ i < 5, (~~~0xFFFFFFE0 : Word).getLsbD i = true := by decide
      exact hostWrites_congr (by decide) rfl hr
        (onWinselWrite_congr s fun i hi => getLsbD_eq_of_and_eq hv (hmask i hi))

/-! ### IRQ (10_state.md R39) -/

/-- Settles O52: the level is the Boolean formula of R39. -/
theorem irqLevel : Obligations.IrqLevel := by
  intro s
  rw [State.irq, Bool.and_eq_true, Bool.or_eq_true]

end Sys2Proof.Proofs

namespace Sys2Proof.Proofs

open Sys2Proof.Machine Sys2Proof.Safety Sys2Proof.Laws

/-! ### Accesses that take no effect (20_memory.md R64) -/

/-- An access of another width, or at an offset that is not a multiple of 4, takes no effect. -/
theorem takesEffect_of_non_word (s : State) {off size : Nat} (h : size ≠ 4 ∨ off % 4 ≠ 0) :
    s.takesEffect off size = false := by
  unfold State.takesEffect
  rcases h with hsize | halign
  · rw [decide_eq_false hsize, Bool.and_false, Bool.false_and]
  · rw [decide_eq_false halign, Bool.and_false]

/-- A write in the window that takes no effect changes nothing. -/
theorem takes_ignored_write (s : State) {off size : Nat} (v : Word) (ho : off < 4096)
    (hi : s.takesEffect off size = false) : Takes s (.access (.write (s.build.base + off) size v)) s := by
  have h := takes_access_intro s (.write (s.build.base + off) size v)
  rwa [hostAccess_write s off size v ho, if_neg (by simp [hi])] at h

/-- A read in the window that takes no effect answers 0 and changes nothing else. -/
theorem takes_ignored_read (s : State) {off size : Nat} (ho : off < 4096) (hi : s.takesEffect off size = false) :
    Takes s (.access (.read (s.build.base + off) size)) { s with rdata := 0 } := by
  have h := takes_access_intro s (.read (s.build.base + off) size)
  rwa [hostAccess_read s off size ho, if_neg (by simp [hi])] at h

/-- Settles O49: neither reason lets the access take effect. -/
theorem nonWordAccessIgnored : Obligations.NonWordAccessIgnored := by
  intro s off size v ho hbad
  have hi := takesEffect_of_non_word s hbad
  exact ⟨takes_ignored_write s v ho hi, takes_ignored_read s ho hi⟩

/-! ### The words of the window (10_state.md R37; 20_memory.md R66, R67) -/

/-- WIN[j] is an aligned word of the window. -/
theorem win_offset_legal (j : Fin 256) : 0x400 + 4 * j.val < 4096 ∧ (0x400 + 4 * j.val) % 4 = 0 :=
  ⟨by omega, by omega⟩

/-- A host write of WIN[j] as an event. -/
theorem hostWrites_win (s : State) (j : Fin 256) (v : Word) (hr : s.rst = false) :
    HostWrites s (0x400 + 4 * j.val) v (s.onWinWrite j v) := by
  obtain ⟨ho, ha⟩ := win_offset_legal j
  have h := hostWrites_intro s _ v ho ha hr
  rwa [regAt_win] at h

/-- A host read of WIN[j] as an event. -/
theorem hostReads_win (s : State) (j : Fin 256) (hr : s.rst = false) :
    HostReads s (0x400 + 4 * j.val) (s.readReg (.win j)) := by
  obtain ⟨ho, ha⟩ := win_offset_legal j
  have h := hostReads_intro s _ ho ha hr
  rwa [regAt_win] at h

theorem readReg_win_of_busy (s : State) (j : Fin 256) (h : s.busy = true) : s.readReg (.win j) = 0 := by
  rw [State.readReg, if_pos h]

theorem readReg_tags_of_busy (s : State) (h : s.busy = true) : s.readReg .tags = 0 := by
  rw [State.readReg, if_pos h]

/-- Zero extension keeps the coefficient's value. -/
theorem toNat_readReg_win_of_not_busy (s : State) (j : Fin 256) (h : s.busy = false) :
    (s.readReg (.win j)).toNat = ((s.slot s.winsel)[j]).toNat := by
  rw [State.readReg, if_neg (by simp [h])]
  exact BitVec.toNat_setWidth_of_le (by decide)

/-- Settles O44: the read of the window's word, and of TAGS, by the two levels of BUSY. -/
theorem windowRead : Obligations.WindowRead := by
  intro s j hr
  refine ⟨s.readReg (.win j), hostReads_win s j hr, fun hb => ⟨readReg_win_of_busy s j hb, ?_⟩,
    toNat_readReg_win_of_not_busy s j⟩
  exact readReg_tags_of_busy s hb ▸ hostReads_intro s 0x014 (by decide) rfl hr

theorem onWinWrite_of_busy (s : State) (j : Fin 256) (w : Word) (h : s.busy = true) :
    s.onWinWrite j w = s.record .winBusy (BitVec.ofNat 32 (0x400 + 4 * j.val)) := by
  rw [State.onWinWrite, if_pos h]; rfl

theorem onWinWrite_of_range (s : State) (j : Fin 256) (w : Word) (hb : s.busy = false) (hq : 3329 ≤ w.toNat) :
    s.onWinWrite j w =
      s.record .winRange (BitVec.ofNat 32 (s.winsel.val * 2 ^ 16 + (0x400 + 4 * j.val))) := by
  rw [State.onWinWrite, if_neg (by simp [hb]), if_pos hq]; rfl

theorem onWinWrite_of_canonical (s : State) (j : Fin 256) (w : Word) (hb : s.busy = false) (hq : w.toNat < 3329) :
    s.onWinWrite j w = s.setSlot s.winsel ((s.slot s.winsel).set j (w.extractLsb' 0 12)) := by
  rw [State.onWinWrite, if_neg (by simp [hb]), if_neg (Nat.not_le.mpr hq)]

/-- A canonical value fits its 12-bit cell (10_state.md R20, R41). -/
theorem toNat_coeff_of_canonical (w : Word) (hq : w.toNat < 3329) : (w.extractLsb' 0 12).toNat = w.toNat := by
  rw [BitVec.extractLsb'_toNat, Nat.shiftRight_zero, Nat.mod_eq_of_lt (by omega)]

/-- Settles O43: the write by BUSY and by the range of its value. -/
theorem windowWrite : Obligations.WindowWrite := by
  intro s j v hr
  refine ⟨s.onWinWrite j v, hostWrites_win s j v hr, fun hb => ?_, fun hb hq => ?_, fun hb hq => ?_⟩
  · rw [onWinWrite_of_busy s j v hb]
    exact raisedFrom_record _ _ s
  · rw [onWinWrite_of_range s j v hb hq]
    exact raisedFrom_record _ _ s
  · rw [onWinWrite_of_canonical s j v hb hq, slot_setSlot_self]
    refine ⟨rfl, fun e he => slot_setSlot_ne s s.winsel e _ he, fun i hi => ?_, ?_⟩
    · exact Vector.getElem_set_ne j.isLt i.isLt fun hval => hi (Fin.ext hval.symm)
    · calc _ = (v.extractLsb' 0 12).toNat := congrArg BitVec.toNat (Vector.getElem_set_self j.isLt)
        _ = v.toNat := toNat_coeff_of_canonical v hq

end Sys2Proof.Proofs

namespace Sys2Proof.Proofs

open Sys2Proof.Machine Sys2Proof.Safety Sys2Proof.Laws

/-! ### The two rejections of the decoder (30_encoding.md R96 to R98) -/

/-- The opcodes without a row are those of R96. -/
theorem opcodeRow_eq_none_iff {opc : Nat} (h : opc < 256) :
    opcodeRow opc = none ↔ opc = 0x07 ∨ (0x0C ≤ opc ∧ opc ≤ 0x10) ∨ (0x17 ≤ opc ∧ opc ≤ 0xFF) := by
  unfold opcodeRow
  split
  case h_18 =>
    refine iff_of_true rfl ?_
    simp only [imp_false] at *
    omega
  all_goals exact iff_of_false (fun hrow => nomatch hrow) (by omega)

theorem opcodeOf_lt (w : Word) : opcodeOf w < 256 := (w.extractLsb' 0 8).isLt

/-- The opcodes of format F0 (30_encoding.md R95). -/
theorem opcodeRow_f0 {opc : Nat} (h : opc ∈ [0x00, 0x0B]) : ∃ c, opcodeRow opc = some (.f0, c) := by
  simp only [List.mem_cons, List.not_mem_nil, or_false] at h
  rcases h with rfl | rfl <;> exact ⟨_, rfl⟩

/-- The opcodes of format F1T (30_encoding.md R95). -/
theorem opcodeRow_f1t {opc : Nat} (h : opc ∈ [0x09, 0x0A]) : ∃ c, opcodeRow opc = some (.f1t, c) := by
  simp only [List.mem_cons, List.not_mem_nil, or_false] at h
  rcases h with rfl | rfl <;> exact ⟨_, rfl⟩

/-- The opcodes of format F2 (30_encoding.md R95). -/
theorem opcodeRow_f2 {opc : Nat} (h : opc ∈ [0x03, 0x04, 0x08, 0x13, 0x14]) :
    ∃ c, opcodeRow opc = some (.f2, c) := by
  simp only [List.mem_cons, List.not_mem_nil, or_false] at h
  rcases h with rfl | rfl | rfl | rfl | rfl <;> exact ⟨_, rfl⟩

/-- The opcodes of format F3 (30_encoding.md R95). -/
theorem opcodeRow_f3 {opc : Nat} (h : opc ∈ [0x01, 0x02, 0x05, 0x06, 0x11, 0x12, 0x15, 0x16]) :
    ∃ c, opcodeRow opc = some (.f3, c) := by
  simp only [List.mem_cons, List.not_mem_nil, or_false] at h
  rcases h with rfl | rfl | rfl | rfl | rfl | rfl | rfl | rfl <;> exact ⟨_, rfl⟩

/-- A word without an opcode row is illegal, whatever its other bits. -/
theorem decode_of_no_row {w : Word} (h : opcodeRow (opcodeOf w) = none) : decode w = .illegal := by
  rw [decode, h]

/-- A word with an opcode row is a command of that row or has a bit under the row's mask. -/
theorem decode_of_row {w : Word} {f : Format} {c : Fields → Instr} (h : opcodeRow (opcodeOf w) = some (f, c)) :
    decode w = if w &&& f.zmask ≠ 0 then .reserved else .command (c (fieldsOf w)) := by
  rw [decode, h]

theorem decode_eq_illegal_iff (w : Word) : decode w = .illegal ↔ opcodeRow (opcodeOf w) = none := by
  cases hrow : opcodeRow (opcodeOf w) with
  | none => exact iff_of_true (decode_of_no_row hrow) rfl
  | some row =>
    have hne : decode w ≠ .illegal := by rw [decode_of_row hrow]; split <;> exact fun hd => nomatch hd
    exact iff_of_false hne (fun h => nomatch h)

theorem decode_eq_reserved_iff {w : Word} {f : Format} {c : Fields → Instr}
    (h : opcodeRow (opcodeOf w) = some (f, c)) : decode w = .reserved ↔ w &&& f.zmask ≠ 0 := by
  rw [decode_of_row h]
  split
  next hbit => exact iff_of_true rfl hbit
  next hbit => exact iff_of_false (fun hd => nomatch hd) hbit

/-- With the gate open, a CMD write of an illegal word is the record alone (60_exceptions.md R224). -/
theorem onCmdWrite_of_illegal {s : State} {w : Word} (he : s.err = false) (hb : s.busy = false)
    (hw : decode w = .illegal) : s.onCmdWrite w = s.record .illegalOpcode w := by
  simp [State.onCmdWrite, State.cmdError, he, hb, hw]

/-- With the gate open, a CMD write of a reserved word is the record alone (60_exceptions.md R224). -/
theorem onCmdWrite_of_reserved {s : State} {w : Word} (he : s.err = false) (hb : s.busy = false)
    (hw : decode w = .reserved) : s.onCmdWrite w = s.record .reservedNonzero w := by
  simp [State.onCmdWrite, State.cmdError, he, hb, hw]

/-- A host write of CMD as an event. -/
theorem hostWrites_cmd (s : State) (w : Word) (hr : s.rst = false) : HostWrites s 0x00C w (s.onCmdWrite w) :=
  hostWrites_intro s 0x00C w (by decide) rfl hr

/-- A CMD write that is a record raises its error, as the statements speak of it. -/
theorem cmdWrite_raises {s : State} {w : Word} {code : ErrCode} (hr : s.rst = false)
    (h : s.onCmdWrite w = s.record code w) : ∃ t, HostWrites s 0x00C w t ∧ RaisedFrom code w s t :=
  ⟨s.record code w, h ▸ hostWrites_cmd s w hr, raisedFrom_record code w s⟩

/-- Settles O3: the illegal words are those whose opcode has no row, and a CMD write of one records it. -/
theorem illegalOpcodeRejected : Obligations.IllegalOpcodeRejected := by
  intro w opc
  exact ⟨(decode_eq_illegal_iff w).trans (opcodeRow_eq_none_iff (opcodeOf_lt w)),
    fun s hw hr he hb => cmdWrite_raises hr (onCmdWrite_of_illegal he hb hw)⟩

/-- In a row's words, those with a bit under the mask of the row's format are reserved, and a CMD write of one records
it. -/
theorem reserved_rejected_of_row {w : Word} {f : Format} {c : Fields → Instr}
    (hrow : opcodeRow (opcodeOf w) = some (f, c)) :
    (decode w = .reserved ↔ w &&& f.zmask ≠ 0) ∧
      ∀ s : State, decode w = .reserved → s.rst = false → s.err = false → s.busy = false →
        ∃ t, HostWrites s 0x00C w t ∧ RaisedFrom .reservedNonzero w s t :=
  ⟨decode_eq_reserved_iff hrow, fun _ hw hr he hb => cmdWrite_raises hr (onCmdWrite_of_reserved he hb hw)⟩

/-- Settles O4: by the four formats, each with its opcodes' rows and its mask. -/
theorem reservedBitsRejected : Obligations.ReservedBitsRejected := by
  rintro w mask _ rfl (⟨hopc, rfl⟩ | ⟨hopc, rfl⟩ | ⟨hopc, rfl⟩ | ⟨hopc, rfl⟩)
  · obtain ⟨_, hrow⟩ := opcodeRow_f0 hopc
    exact reserved_rejected_of_row hrow
  · obtain ⟨_, hrow⟩ := opcodeRow_f1t hopc
    exact reserved_rejected_of_row hrow
  · obtain ⟨_, hrow⟩ := opcodeRow_f2 hopc
    exact reserved_rejected_of_row hrow
  · obtain ⟨_, hrow⟩ := opcodeRow_f3 hopc
    exact reserved_rejected_of_row hrow

end Sys2Proof.Proofs

namespace Sys2Proof.Proofs

open Sys2Proof.Machine

/-! ### The arithmetic primitives are exact (40_modarith.md R121 to R125, R129) -/

/-- The masked select that ends each primitive reduces any value below `2Q`. -/
theorem condSub_eq_mod {n : Nat} (h : n < 2 * 3329) : (if 3329 ≤ n then n - 3329 else n) = n % 3329 := by
  split
  next hle => rw [Nat.mod_eq_sub_mod hle, Nat.mod_eq_of_lt (by omega)]
  next hlt => exact (Nat.mod_eq_of_lt (Nat.lt_of_not_le hlt)).symm

/-- The quotient estimate is never above the quotient, since `20158 * Q ≤ 2^26` (R123). -/
theorem quotientEstimate_le (x : Nat) : x * 20158 / 2 ^ 26 ≤ x / 3329 := by
  rw [Nat.le_div_iff_mul_le (by decide)]
  omega

/-- As `2^26 = 20158 * Q + 2882`, a remainder estimate of `2Q` or more needs a quotient estimate `t` with
`2^26 < 2882 * (t + 2)`, hence `x ≥ 23286 * Q = 77519094` (R124). -/
theorem remainderEstimate_lt {x : Nat} (h : x < 77519094) : x - x * 20158 / 2 ^ 26 * 3329 < 2 * 3329 := by
  by_contra hge
  have hx : (x * 20158 / 2 ^ 26 + 2) * 3329 ≤ x := by omega
  have herr : 2 ^ 26 < 2882 * (x * 20158 / 2 ^ 26 + 2) := by omega
  omega

/-- The quotient estimate is the quotient or one less (R124). -/
theorem quotientEstimate_eq_or {x : Nat} (h : x < 77519094) :
    x * 20158 / 2 ^ 26 = x / 3329 ∨ x * 20158 / 2 ^ 26 + 1 = x / 3329 := by
  have hle := quotientEstimate_le x
  have hlt : x / 3329 < x * 20158 / 2 ^ 26 + 2 := by
    rw [Nat.div_lt_iff_lt_mul (by decide)]
    have hr := remainderEstimate_lt h
    omega
  omega

/-- The remainder estimate is a residue of `x`, so reducing it once more gives `x mod Q`. -/
theorem barrett_eq_mod {x : Nat} (h : x < 77519094) : barrett x = x % 3329 := by
  have hmul : 3329 * (x * 20158 / 2 ^ 26) ≤ x :=
    (Nat.mul_le_mul_left 3329 (quotientEstimate_le x)).trans (Nat.mul_div_le x 3329)
  calc barrett x = (x - x * 20158 / 2 ^ 26 * 3329) % 3329 := by
        rw [barrett, Nat.shiftRight_eq_div_pow]
        exact condSub_eq_mod (remainderEstimate_lt h)
    _ = x % 3329 := by rw [Nat.mul_comm _ 3329, Nat.sub_mul_mod hmul]

/-- A product of canonical values (R125). -/
theorem mul_le_of_canonical {m n : Nat} (hm : m < 3329) (hn : n < 3329) : m * n ≤ 11075584 :=
  Nat.mul_le_mul (Nat.le_of_lt_succ hm) (Nat.le_of_lt_succ hn)

/-- A residue fits its cell. -/
theorem toNat_coeffOfNat_mod (n : Nat) : (coeffOfNat (n % 3329)).toNat = n % 3329 := by
  rw [coeffOfNat, BitVec.toNat_ofNat, Nat.mod_eq_of_lt ((Nat.mod_lt n (by decide)).trans (by decide))]

theorem toNat_modAdd {a b : Coeff} (ha : a.toNat < 3329) (hb : b.toNat < 3329) :
    (modAdd a b).toNat = (a.toNat + b.toNat) % 3329 := by
  rw [modAdd, condSub_eq_mod (by omega), toNat_coeffOfNat_mod]

theorem toNat_modSub {a b : Coeff} (ha : a.toNat < 3329) (hb : b.toNat < 3329) :
    (modSub a b).toNat = (a.toNat + 3329 - b.toNat) % 3329 := by
  have hs : a.toNat + 3329 - b.toNat < 2 * 3329 := by omega
  rw [modSub, condSub_eq_mod hs, toNat_coeffOfNat_mod]

theorem toNat_modMul {a b : Coeff} (ha : a.toNat < 3329) (hb : b.toNat < 3329) :
    (modMul a b).toNat = a.toNat * b.toNat % 3329 := by
  have hab := mul_le_of_canonical ha hb
  rw [modMul, barrett_eq_mod (by omega), toNat_coeffOfNat_mod]

/-- Every argument a caller hands to the reducer is in its domain (R124). -/
theorem caller_arguments_lt {a b c d : Coeff} (ha : a.toNat < 3329) (hb : b.toNat < 3329) (hc : c.toNat < 3329)
    (hd : d.toNat < 3329) :
    a.toNat * b.toNat < 2 ^ 26 ∧ a.toNat * b.toNat + c.toNat * d.toNat < 2 ^ 26 ∧
      (modMul a b).toNat * c.toNat + d.toNat * a.toNat < 2 ^ 26 := by
  have hm : (modMul a b).toNat < 3329 := toNat_modMul ha hb ▸ Nat.mod_lt _ (by decide)
  have hab := mul_le_of_canonical ha hb
  have hcd := mul_le_of_canonical hc hd
  have hmc := mul_le_of_canonical hm hc
  have hda := mul_le_of_canonical hd ha
  omega

/-- Settles O6: by the bounds on the quotient and remainder estimates, which hold up to the first failing value; the
error bound itself is arithmetic. -/
theorem barrettExact : Obligations.BarrettExact := by
  refine ⟨fun x hx => barrett_eq_mod (by omega), fun x hx => ⟨?_, quotientEstimate_eq_or (by omega)⟩,
    fun x hx => remainderEstimate_lt hx, by decide, fun a b c d ha hb hc hd => caller_arguments_lt ha hb hc hd⟩
  omega

/-- Settles O7: each primitive reduces its exact value once, ModSub after adding `Q`. -/
theorem modularOpsExact : Obligations.ModularOpsExact := by
  intro a b ha hb
  refine ⟨toNat_modAdd ha hb, ?_, toNat_modMul ha hb⟩
  rw [toNat_modSub ha hb]
  omega

end Sys2Proof.Proofs

namespace Sys2Proof.Proofs

open Sys2Proof.Machine Sys2Proof.Safety Sys2Proof.Laws

/-! ### Butterflies

The transforms of 41_ntt.md R142 and R144 differ in the two values a butterfly writes and in the direction of the
table index. What holds of both is proved once, over a `Butterfly`. -/

/-- The values a butterfly with twiddle `z` writes over `g[j]` and `g[j + len]`, from the old values of the two, and
the table index of the next block. -/
structure Butterfly where
  top : Coeff → Coeff → Coeff → Coeff
  bottom : Coeff → Coeff → Coeff → Coeff
  next : Nat → Nat

/-- The butterfly of R142. -/
def Butterfly.forward : Butterfly where
  top z x y := modAdd x (modMul z y)
  bottom z x y := modSub x (modMul z y)
  next := Nat.succ

/-- The butterfly of R144. -/
def Butterfly.inverse : Butterfly where
  top _ x y := modAdd x y
  bottom z x y := modMul z (modSub y x)
  next := Nat.pred

/-- The butterflies of one block, from its two halves. -/
def Butterfly.block (B : Butterfly) (z : Coeff) (lo hi : List Coeff) : List Coeff :=
  List.zipWith (B.top z) lo hi ++ List.zipWith (B.bottom z) lo hi

/-- The first `n` blocks of a layer, the first with table index `i`. -/
def Butterfly.layer (B : Butterfly) (len : Nat) : Nat → Nat → List Coeff → List Coeff
  | 0, _, _ => []
  | n + 1, i, g =>
    B.block (zt i) (g.take len) ((g.drop len).take len) ++ B.layer len n (B.next i) (g.drop (2 * len))

/-- The layers `lens` one after the other, where the layer of `len` begins at table index `idx len`. -/
def Butterfly.run (B : Butterfly) (idx : Nat → Nat) (lens : List Nat) (g : List Coeff) : List Coeff :=
  lens.foldl (fun g len => B.layer len (128 / len) (idx len) g) g

/-- One butterfly in place. -/
def Butterfly.update (B : Butterfly) (z : Coeff) (len : Nat) (g : List Coeff) (j : Nat) : List Coeff :=
  (g.set j (B.top z (at' g j) (at' g (j + len)))).set (j + len) (B.bottom z (at' g j) (at' g (j + len)))

/-! #### The model's transforms are runs of butterflies -/

theorem fwdLayer_eq_layer (len : Nat) : ∀ n i g, fwdLayer len n i g = Butterfly.forward.layer len n i g
  | 0, _, _ => rfl
  | n + 1, i, _ => congrArg (_ ++ ·) (fwdLayer_eq_layer len n (i + 1) _)

theorem invLayer_eq_layer (len : Nat) : ∀ n i g, invLayer len n i g = Butterfly.inverse.layer len n i g
  | 0, _, _ => rfl
  | n + 1, i, _ => congrArg (_ ++ ·) (invLayer_eq_layer len n (i - 1) _)

theorem nttList_eq_run (f : List Coeff) : nttList f = Butterfly.forward.run (128 / ·) fwdLens f := by
  simp only [nttList, Butterfly.run, fwdLayer_eq_layer]

theorem inttList_eq_run (f : List Coeff) :
    inttList f = (Butterfly.inverse.run (256 / · - 1) invLens f).map fun x => modMul x inv128 := by
  simp only [inttList, Butterfly.run, invLayer_eq_layer]

/-! #### Blocks and layers -/

theorem length_block (B : Butterfly) (z : Coeff) {lo hi : List Coeff} (h : lo.length = hi.length) :
    (B.block z lo hi).length = 2 * lo.length := by
  simp [Butterfly.block, ← h]
  omega

/-- A layer takes its first block off the list and goes on behind it. -/
theorem layer_succ_append (B : Butterfly) {len : Nat} (n i : Nat) {lo hi : List Coeff} (q : List Coeff)
    (hlo : lo.length = len) (hhi : hi.length = len) :
    B.layer len (n + 1) i (lo ++ hi ++ q) = B.block (zt i) lo hi ++ B.layer len n (B.next i) q := by
  subst hlo
  have hblock : 2 * lo.length = (lo ++ hi).length := by simp [hhi]; omega
  rw [Butterfly.layer, hblock, List.drop_left]
  simp [← hhi]

/-- A list as long as `n + 1` blocks is a block's two halves and `n` blocks behind. -/
theorem exists_block_append {len n : Nat} {g : List Coeff} (hg : g.length = 2 * len * (n + 1)) :
    ∃ lo hi q, g = lo ++ hi ++ q ∧ lo.length = len ∧ hi.length = len ∧ q.length = 2 * len * n := by
  have hlen : 2 * len * (n + 1) = 2 * len * n + 2 * len := by ring
  refine ⟨g.take len, (g.drop len).take len, g.drop (len + len), ?_, ?_, ?_, ?_⟩
  · rw [List.append_assoc, ← List.drop_drop, List.take_append_drop, List.take_append_drop]
  all_goals simp; omega

theorem length_layer (B : Butterfly) (len : Nat) : ∀ (n i : Nat) (g : List Coeff), g.length = 2 * len * n →
    (B.layer len n i g).length = 2 * len * n
  | 0, _, _, _ => rfl
  | n + 1, i, g, hg => by
    obtain ⟨lo, hi, q, rfl, hlo, hhi, hq⟩ := exists_block_append hg
    rw [layer_succ_append B n i q hlo hhi, List.length_append, length_block B _ (hlo.trans hhi.symm),
      length_layer B len n _ q hq, hlo]
    ring

/-! #### The in-place loops -/

theorem at'_append_length (p q : List Coeff) (x : Coeff) : at' (p ++ x :: q) p.length = x := by
  simp [at']

theorem set_append_length (p q : List Coeff) (x y : Coeff) : (p ++ x :: q).set p.length y = p ++ y :: q := by
  simp

/-- A butterfly in place, the list cut at its two positions. -/
theorem update_append (B : Butterfly) (z x y : Coeff) (p m q : List Coeff) :
    B.update z (m.length + 1) (p ++ x :: m ++ y :: q) p.length =
      p ++ B.top z x y :: m ++ B.bottom z x y :: q := by
  have hpos (a : Coeff) : p.length + (m.length + 1) = (p ++ a :: m).length := by simp
  have hx : at' (p ++ x :: m ++ y :: q) p.length = x := by
    rw [List.append_assoc, List.cons_append, at'_append_length]
  have hset (a : Coeff) : (p ++ x :: m ++ y :: q).set p.length a = p ++ a :: m ++ y :: q := by
    simp
  rw [Butterfly.update, hx, hset, hpos x, at'_append_length, ← hpos x,
    hpos (B.top z x y), set_append_length]

/-- The butterflies from the front of the halves `lo` and `hi` on, where `m` holds the bottom values written before. -/
theorem foldl_update (B : Butterfly) (z : Coeff) (q : List Coeff) : ∀ (lo hi p m : List Coeff),
    lo.length = hi.length →
    (List.range' p.length lo.length).foldl (B.update z (lo.length + m.length)) (p ++ lo ++ m ++ hi ++ q) =
      p ++ List.zipWith (B.top z) lo hi ++ m ++ List.zipWith (B.bottom z) lo hi ++ q
  | [], [], p, m, _ => by simp
  | x :: lo, y :: hi, p, m, h => by
    have hstep := update_append B z x y p (lo ++ m) (hi ++ q)
    have ih := foldl_update B z q lo hi (p ++ [B.top z x y]) (m ++ [B.bottom z x y]) (by simpa using h)
    simp only [List.length_append, List.length_cons, List.length_nil, List.append_assoc, List.cons_append,
      List.nil_append, List.zipWith_cons_cons, zero_add, List.range'_succ, List.foldl_cons, add_right_comm _ 1,
      ← add_assoc] at hstep ih ⊢
    rw [hstep, ih]

/-- The inner loop of a block at `start`, in place. -/
theorem foldl_range_update (B : Butterfly) (z : Coeff) (p q : List Coeff) {lo hi : List Coeff} {len : Nat}
    (hlo : lo.length = len) (hhi : hi.length = len) :
    (List.range len).foldl (fun g r => B.update z len g (p.length + r)) (p ++ (lo ++ hi ++ q)) =
      p ++ B.block z lo hi ++ q := by
  have h := foldl_update B z q lo hi p [] (hlo.trans hhi.symm)
  rw [List.range'_eq_map_range, List.foldl_map, hlo] at h
  simpa [Butterfly.block] using h

end Sys2Proof.Proofs

namespace Sys2Proof.Proofs

open Sys2Proof.Machine Sys2Proof.Safety Sys2Proof.Laws

/-- `step` is the block loop of `B` for `len`: from a state whose table index is `i` it transforms the block at `start`
in place and moves the index on. -/
def Butterfly.IsBlockLoop (B : Butterfly) (len : Nat) (step : List Coeff × Nat → Nat → List Coeff × Nat) : Prop :=
  ∀ (p lo hi q : List Coeff) (i : Nat), lo.length = len → hi.length = len →
    step (p ++ (lo ++ hi ++ q), i) p.length = (p ++ B.block (zt i) lo hi ++ q, B.next i)

/-- R142 writes `g[j + len]` first, which leaves `g[j]` as it was. -/
theorem fwdButterfly_eq_update {len : Nat} (hlen : 0 < len) (z : Coeff) (g : List Coeff) (j : Nat) :
    fwdButterfly z len g j = Butterfly.forward.update z len g j := by
  have hj : at' (g.set (j + len) (modSub (at' g j) (modMul z (at' g (j + len))))) j = at' g j := by
    simp [at', List.getElem?_set_ne, hlen.ne']
  rw [fwdButterfly, hj, List.set_comm _ _ (by omega)]
  rfl

/-- R144 writes `g[j]` first, which leaves `g[j + len]` as it was. -/
theorem invButterfly_eq_update {len : Nat} (hlen : 0 < len) (z : Coeff) (g : List Coeff) (j : Nat) :
    invButterfly z len g j = Butterfly.inverse.update z len g j := by
  have hj : at' (g.set j (modAdd (at' g j) (at' g (j + len)))) (j + len) = at' g (j + len) := by
    simp [at', List.getElem?_set_ne, hlen.ne']
  rw [invButterfly, hj]
  rfl

theorem fwdLoopBlock_isBlockLoop {len : Nat} (hlen : 0 < len) :
    Butterfly.forward.IsBlockLoop len (fwdLoopBlock len) := by
  intro p lo hi q i hlo hhi
  simp only [fwdLoopBlock, fwdButterfly_eq_update hlen, foldl_range_update _ _ p q hlo hhi]
  rfl

theorem invLoopBlock_isBlockLoop {len : Nat} (hlen : 0 < len) :
    Butterfly.inverse.IsBlockLoop len (invLoopBlock len) := by
  intro p lo hi q i hlo hhi
  simp only [invLoopBlock, invButterfly_eq_update hlen, foldl_range_update _ _ p q hlo hhi]
  rfl

/-- The block loops from block `k` on, with the blocks in `p` done. -/
theorem foldl_blockLoop {B : Butterfly} {len : Nat} {step : List Coeff × Nat → Nat → List Coeff × Nat}
    (hstep : B.IsBlockLoop len step) : ∀ (n k i : Nat) (p g : List Coeff), p.length = 2 * len * k →
    g.length = 2 * len * n →
    ((List.range' k n).map (2 * len * ·)).foldl step (p ++ g, i) = (p ++ B.layer len n i g, B.next^[n] i)
  | 0, k, i, p, g, _, hg => by
    have hnil : g = [] := List.length_eq_zero_iff.mp hg
    simp [hnil, Butterfly.layer]
  | n + 1, k, i, p, g, hp, hg => by
    obtain ⟨lo, hi, q, rfl, hlo, hhi, hq⟩ := exists_block_append hg
    have hdone : (p ++ B.block (zt i) lo hi).length = 2 * len * (k + 1) := by
      rw [List.length_append, length_block B _ (hlo.trans hhi.symm), hp, hlo]
      ring
    rw [List.range'_succ, List.map_cons, List.foldl_cons, ← hp, hstep p lo hi q i hlo hhi,
      foldl_blockLoop hstep n (k + 1) _ _ q hdone hq, layer_succ_append B n i q hlo hhi, List.append_assoc,
      Function.iterate_succ_apply]

/-- A layer's loop, where `n` blocks make up the list. -/
theorem foldl_range_blockLoop {B : Butterfly} {len : Nat} {step : List Coeff × Nat → Nat → List Coeff × Nat}
    (hstep : B.IsBlockLoop len step) (n i : Nat) {g : List Coeff} (hg : g.length = 2 * len * n) :
    ((List.range n).map (2 * len * ·)).foldl step (g, i) = (B.layer len n i g, B.next^[n] i) := by
  rw [List.range_eq_range']
  exact foldl_blockLoop hstep n 0 i [] g rfl hg

/-- `step` is the loop of one layer of `B`: it transforms the blocks that cover the list and moves the table index on
once a block. -/
def Butterfly.IsLayerLoop (B : Butterfly) (step : List Coeff × Nat → Nat → List Coeff × Nat) : Prop :=
  ∀ (len i : Nat) (g : List Coeff), 2 * len * (128 / len) = 256 → g.length = 256 →
    step (g, i) len = (B.layer len (128 / len) i g, B.next^[128 / len] i)

theorem pos_of_cover {len : Nat} (hn : 2 * len * (128 / len) = 256) : 0 < len :=
  Nat.pos_of_ne_zero (by rintro rfl; simp at hn)

theorem fwdLoopLayer_isLayerLoop : Butterfly.forward.IsLayerLoop fwdLoopLayer := fun _ i _ hn hg =>
  foldl_range_blockLoop (fwdLoopBlock_isBlockLoop (pos_of_cover hn)) _ i (hg.trans hn.symm)

theorem invLoopLayer_isLayerLoop : Butterfly.inverse.IsLayerLoop invLoopLayer := fun _ i _ hn hg =>
  foldl_range_blockLoop (invLoopBlock_isBlockLoop (pos_of_cover hn)) _ i (hg.trans hn.symm)

/-- The layers `lens` with a running table index. -/
def Butterfly.runIndexed (B : Butterfly) (lens : List Nat) (gi : List Coeff × Nat) : List Coeff × Nat :=
  lens.foldl (fun gi len => (B.layer len (128 / len) gi.2 gi.1, B.next^[128 / len] gi.2)) gi

/-- A layer keeps the length of the lists that its blocks cover. -/
theorem length_layer_of_cover (B : Butterfly) {len n : Nat} (hn : 2 * len * n = 256) (i : Nat) {g : List Coeff}
    (hg : g.length = 256) : (B.layer len n i g).length = 256 := by
  rw [length_layer B len n i g (hg.trans hn.symm), hn]

/-- The loops of the layers, in place and with their running index. -/
theorem foldl_layerLoop {B : Butterfly} {step : List Coeff × Nat → Nat → List Coeff × Nat}
    (hstep : B.IsLayerLoop step) : ∀ (lens : List Nat) (g : List Coeff) (i : Nat),
    (∀ len ∈ lens, 2 * len * (128 / len) = 256) → g.length = 256 →
    lens.foldl step (g, i) = B.runIndexed lens (g, i)
  | [], _, _, _, _ => rfl
  | len :: lens, g, i, hlens, hg => by
    obtain ⟨hn, hlens⟩ := List.forall_mem_cons.mp hlens
    rw [List.foldl_cons, hstep len i g hn hg, foldl_layerLoop hstep lens _ _ hlens (length_layer_of_cover B hn i hg)]
    rfl

@[simp] theorem forward_next_iterate (n i : Nat) : Butterfly.forward.next^[n] i = i + n := Nat.succ_iterate i n

@[simp] theorem inverse_next_iterate (n i : Nat) : Butterfly.inverse.next^[n] i = i - n := Nat.pred_iterate i n

theorem nttLoop_eq {f : List Coeff} (hf : f.length = 256) : nttLoop f = (nttList f, 128) := by
  rw [nttLoop, foldl_layerLoop fwdLoopLayer_isLayerLoop _ f 1 (by decide) hf, nttList_eq_run]
  simp [Butterfly.runIndexed, Butterfly.run, fwdLens]

theorem inttLoop_eq {f : List Coeff} (hf : f.length = 256) :
    inttLoop f = (Butterfly.inverse.run (256 / · - 1) invLens f, 0) := by
  rw [inttLoop, foldl_layerLoop invLoopLayer_isLayerLoop _ f 127 (by decide) hf]
  simp [Butterfly.runIndexed, Butterfly.run, invLens]

/-- A loop that rewrites position after position is a map; `p` holds the positions done. -/
theorem foldl_set_eq_map (c : Coeff → Coeff) : ∀ p q : List Coeff,
    (List.range' p.length q.length).foldl (fun g j => g.set j (c (at' g j))) (p ++ q) = p ++ q.map c
  | p, [] => by simp
  | p, x :: q => by
    have ih := foldl_set_eq_map c (p ++ [c x]) q
    rw [List.length_cons, List.range'_succ, List.foldl_cons, at'_append_length, set_append_length]
    simpa using ih

theorem scaleLoop_eq_map {g : List Coeff} (hg : g.length = 256) : scaleLoop g = g.map fun x => modMul x inv128 := by
  have h := foldl_set_eq_map (fun x => modMul x inv128) [] g
  rwa [List.length_nil, hg, ← List.range_eq_range', List.nil_append, List.nil_append] at h

end Sys2Proof.Proofs

namespace Sys2Proof.Proofs

open Sys2Proof.Machine Sys2Proof.Safety Sys2Proof.Laws

/-! ### Canonical coefficients and their residues modulo Q -/

theorem modAdd_lt {a b : Coeff} (ha : a.toNat < 3329) (hb : b.toNat < 3329) : (modAdd a b).toNat < 3329 :=
  toNat_modAdd ha hb ▸ Nat.mod_lt _ (by decide)

theorem modSub_lt {a b : Coeff} (ha : a.toNat < 3329) (hb : b.toNat < 3329) : (modSub a b).toNat < 3329 :=
  toNat_modSub ha hb ▸ Nat.mod_lt _ (by decide)

/-- The product of any two cells, canonical or not, is in the reducer's domain. -/
theorem toNat_modMul_of_cells (a b : Coeff) : (modMul a b).toNat = a.toNat * b.toNat % 3329 := by
  have hab : a.toNat * b.toNat ≤ 4095 * 4095 := Nat.mul_le_mul (Nat.le_of_lt_succ a.isLt) (Nat.le_of_lt_succ b.isLt)
  rw [modMul, barrett_eq_mod (by omega), toNat_coeffOfNat_mod]

theorem modMul_lt (a b : Coeff) : (modMul a b).toNat < 3329 :=
  toNat_modMul_of_cells a b ▸ Nat.mod_lt _ (by decide)

/-- A coefficient as an element of Z_Q. -/
def residue (x : Coeff) : ZMod 3329 := (x.toNat : ZMod 3329)

theorem residue_modAdd {a b : Coeff} (ha : a.toNat < 3329) (hb : b.toNat < 3329) :
    residue (modAdd a b) = residue a + residue b := by
  rw [residue, toNat_modAdd ha hb, ZMod.natCast_mod, Nat.cast_add]
  rfl

theorem residue_modSub {a b : Coeff} (ha : a.toNat < 3329) (hb : b.toNat < 3329) :
    residue (modSub a b) = residue a - residue b := by
  rw [residue, toNat_modSub ha hb, ZMod.natCast_mod, Nat.cast_sub (by omega), Nat.cast_add, ZMod.natCast_self, add_zero]
  rfl

theorem residue_modMul (a b : Coeff) : residue (modMul a b) = residue a * residue b := by
  rw [residue, toNat_modMul_of_cells, ZMod.natCast_mod, Nat.cast_mul]
  rfl

/-- A canonical coefficient is given by its residue. -/
theorem eq_of_residue_eq {a b : Coeff} (ha : a.toNat < 3329) (hb : b.toNat < 3329) (h : residue a = residue b) :
    a = b := by
  have hmod := (ZMod.natCast_eq_natCast_iff' _ _ _).mp h
  rw [Nat.mod_eq_of_lt ha, Nat.mod_eq_of_lt hb] at hmod
  exact BitVec.eq_of_toNat_eq hmod

/-- Every coefficient of the list is canonical. -/
def CanonicalList (g : List Coeff) : Prop := ∀ x ∈ g, x.toNat < 3329

theorem canonicalElem_iff_toList (p : RingElem) : CanonicalElem p ↔ CanonicalList p.toList := by
  simp only [CanonicalElem, CanonicalList, Vector.mem_toList_iff, Vector.mem_iff_getElem]
  exact ⟨fun h x ⟨j, hj, hx⟩ => hx ▸ h ⟨j, hj⟩, fun h j => h _ ⟨j, j.isLt, rfl⟩⟩

theorem canonicalList_append {g h : List Coeff} :
    CanonicalList (g ++ h) ↔ CanonicalList g ∧ CanonicalList h := List.forall_mem_append

theorem canonicalList_cons {x : Coeff} {g : List Coeff} :
    CanonicalList (x :: g) ↔ x.toNat < 3329 ∧ CanonicalList g := List.forall_mem_cons

/-! ### The twiddle tables (41_ntt.md R141, R146, R147) -/

/-- Settles O9: by evaluating the two tables, entry by entry. -/
theorem twiddleTables : Obligations.TwiddleTables := by
  refine ⟨?_, ?_, rfl, rfl⟩
  · decide +kernel
  · decide +kernel

/-- The entry an inverse block reads, times the forward entry of the same block, is -1 (41_ntt.md section 3). -/
theorem zt_mul_zt_mod : ∀ len ∈ [2, 4, 8, 16, 32, 64, 128], ∀ b < 128 / len,
    (zt (256 / len - 1 - b)).toNat * (zt (128 / len + b)).toNat % 3329 = 3329 - 1 := by
  decide +kernel

theorem residue_zt_mul_residue_zt {len b : Nat} (hlen : len ∈ [2, 4, 8, 16, 32, 64, 128]) (hb : b < 128 / len) :
    residue (zt (256 / len - 1 - b)) * residue (zt (128 / len + b)) = -1 := by
  rw [residue, residue, ← Nat.cast_mul, ← ZMod.natCast_mod, zt_mul_zt_mod len hlen b hb]
  rfl

/-! ### Every layer keeps coefficients canonical and commutes with scaling -/

/-- Every coefficient times `c`. -/
def scale (c : Coeff) (g : List Coeff) : List Coeff := g.map (modMul · c)

theorem scale_append (c : Coeff) (g h : List Coeff) : scale c (g ++ h) = scale c g ++ scale c h := List.map_append

/-- On canonical values the butterfly gives canonical values and commutes with scaling by a constant. -/
structure Butterfly.Modular (B : Butterfly) : Prop where
  lt : ∀ {z x y : Coeff}, x.toNat < 3329 → y.toNat < 3329 →
    (B.top z x y).toNat < 3329 ∧ (B.bottom z x y).toNat < 3329
  scale : ∀ (c : Coeff) {z x y : Coeff}, x.toNat < 3329 → y.toNat < 3329 →
    B.top z (modMul x c) (modMul y c) = modMul (B.top z x y) c ∧
    B.bottom z (modMul x c) (modMul y c) = modMul (B.bottom z x y) c

theorem forward_lt {z x y : Coeff} (hx : x.toNat < 3329) :
    (Butterfly.forward.top z x y).toNat < 3329 ∧ (Butterfly.forward.bottom z x y).toNat < 3329 :=
  ⟨modAdd_lt hx (modMul_lt z y), modSub_lt hx (modMul_lt z y)⟩

theorem inverse_lt {z x y : Coeff} (hx : x.toNat < 3329) (hy : y.toNat < 3329) :
    (Butterfly.inverse.top z x y).toNat < 3329 ∧ (Butterfly.inverse.bottom z x y).toNat < 3329 :=
  ⟨modAdd_lt hx hy, modMul_lt z _⟩

theorem residue_forward_top {z x y : Coeff} (hx : x.toNat < 3329) :
    residue (Butterfly.forward.top z x y) = residue x + residue z * residue y := by
  rw [← residue_modMul]
  exact residue_modAdd hx (modMul_lt z y)

theorem residue_forward_bottom {z x y : Coeff} (hx : x.toNat < 3329) :
    residue (Butterfly.forward.bottom z x y) = residue x - residue z * residue y := by
  rw [← residue_modMul]
  exact residue_modSub hx (modMul_lt z y)

theorem residue_inverse_top {z x y : Coeff} (hx : x.toNat < 3329) (hy : y.toNat < 3329) :
    residue (Butterfly.inverse.top z x y) = residue x + residue y := residue_modAdd hx hy

theorem residue_inverse_bottom {z x y : Coeff} (hx : x.toNat < 3329) (hy : y.toNat < 3329) :
    residue (Butterfly.inverse.bottom z x y) = residue z * (residue y - residue x) := by
  rw [← residue_modSub hy hx]
  exact residue_modMul z _

theorem forward_modular : Butterfly.forward.Modular where
  lt hx _ := forward_lt hx
  scale c z x y hx hy := by
    constructor
    · refine eq_of_residue_eq (forward_lt (modMul_lt _ _)).1 (modMul_lt _ _) ?_
      simp only [residue_forward_top, residue_modMul, modMul_lt, hx]
      ring
    · refine eq_of_residue_eq (forward_lt (modMul_lt _ _)).2 (modMul_lt _ _) ?_
      simp only [residue_forward_bottom, residue_modMul, modMul_lt, hx]
      ring

theorem inverse_modular : Butterfly.inverse.Modular where
  lt hx hy := inverse_lt hx hy
  scale c z x y hx hy := by
    constructor
    · refine eq_of_residue_eq (inverse_lt (z := z) (modMul_lt _ _) (modMul_lt _ _)).1 (modMul_lt _ _) ?_
      simp only [residue_inverse_top, residue_modMul, modMul_lt, hx, hy]
      ring
    · refine eq_of_residue_eq (inverse_lt (modMul_lt _ _) (modMul_lt _ _)).2 (modMul_lt _ _) ?_
      simp only [residue_inverse_bottom, residue_modMul, modMul_lt, hx, hy]
      ring

theorem canonicalList_zipWith {f : Coeff → Coeff → Coeff}
    (hf : ∀ {x y : Coeff}, x.toNat < 3329 → y.toNat < 3329 → (f x y).toNat < 3329) : ∀ {lo hi : List Coeff},
    CanonicalList lo → CanonicalList hi → CanonicalList (List.zipWith f lo hi)
  | [], _, _, _ => fun x hx => by simp at hx
  | _ :: _, [], _, _ => fun x hx => by simp at hx
  | _ :: _, _ :: _, hlo, hhi =>
    have ⟨hx, hlo⟩ := canonicalList_cons.mp hlo
    have ⟨hy, hhi⟩ := canonicalList_cons.mp hhi
    canonicalList_cons.mpr ⟨hf hx hy, canonicalList_zipWith hf hlo hhi⟩

theorem CanonicalList.take {g : List Coeff} (hg : CanonicalList g) (n : Nat) : CanonicalList (g.take n) :=
  fun x hx => hg x (List.mem_of_mem_take hx)

theorem CanonicalList.drop {g : List Coeff} (hg : CanonicalList g) (n : Nat) : CanonicalList (g.drop n) :=
  fun x hx => hg x (List.mem_of_mem_drop hx)

theorem canonicalList_layer {B : Butterfly} (hB : B.Modular) (len : Nat) : ∀ (n i : Nat) {g : List Coeff},
    CanonicalList g → CanonicalList (B.layer len n i g)
  | 0, _, _, _ => fun _ hx => nomatch hx
  | n + 1, i, g, hg => by
    have hlo := hg.take len
    have hhi := (hg.drop len).take len
    refine canonicalList_append.mpr ⟨canonicalList_append.mpr ⟨?_, ?_⟩, canonicalList_layer hB len n _ (hg.drop _)⟩
    · exact canonicalList_zipWith (fun hx hy => (hB.lt hx hy).1) hlo hhi
    · exact canonicalList_zipWith (fun hx hy => (hB.lt hx hy).2) hlo hhi

theorem canonicalList_run {B : Butterfly} (hB : B.Modular) (idx : Nat → Nat) : ∀ (lens : List Nat) {g : List Coeff},
    CanonicalList g → CanonicalList (B.run idx lens g)
  | [], _, hg => hg
  | len :: lens, _, hg => canonicalList_run hB idx lens (canonicalList_layer hB len _ _ hg)

theorem zipWith_scale {f : Coeff → Coeff → Coeff} {c : Coeff}
    (hf : ∀ {x y : Coeff}, x.toNat < 3329 → y.toNat < 3329 → f (modMul x c) (modMul y c) = modMul (f x y) c) :
    ∀ {lo hi : List Coeff}, CanonicalList lo → CanonicalList hi →
      List.zipWith f (scale c lo) (scale c hi) = scale c (List.zipWith f lo hi)
  | [], _, _, _ => rfl
  | _ :: _, [], _, _ => rfl
  | _ :: _, _ :: _, hlo, hhi =>
    have ⟨hx, hlo⟩ := canonicalList_cons.mp hlo
    have ⟨hy, hhi⟩ := canonicalList_cons.mp hhi
    congrArg₂ List.cons (hf hx hy) (zipWith_scale hf hlo hhi)

theorem block_scale {B : Butterfly} (hB : B.Modular) (c z : Coeff) {lo hi : List Coeff} (hlo : CanonicalList lo)
    (hhi : CanonicalList hi) : B.block z (scale c lo) (scale c hi) = scale c (B.block z lo hi) := by
  have htop := zipWith_scale (fun hx hy => (hB.scale c (z := z) hx hy).1) hlo hhi
  have hbottom := zipWith_scale (fun hx hy => (hB.scale c (z := z) hx hy).2) hlo hhi
  rw [Butterfly.block, htop, hbottom, Butterfly.block, scale_append]

theorem layer_scale {B : Butterfly} (hB : B.Modular) (c : Coeff) (len : Nat) : ∀ (n i : Nat) {g : List Coeff},
    CanonicalList g → B.layer len n i (scale c g) = scale c (B.layer len n i g)
  | 0, _, _, _ => rfl
  | n + 1, i, g, hg => by
    have hblock := block_scale hB c (zt i) (hg.take len) ((hg.drop len).take len)
    have hrest := layer_scale hB c len n (B.next i) (hg.drop (2 * len))
    simp only [scale, List.map_take, List.map_drop] at hblock hrest
    simp only [Butterfly.layer, scale, hblock, hrest, List.map_append]

theorem run_scale {B : Butterfly} (hB : B.Modular) (idx : Nat → Nat) (c : Coeff) : ∀ (lens : List Nat)
    {g : List Coeff}, CanonicalList g → B.run idx lens (scale c g) = scale c (B.run idx lens g)
  | [], _, _ => rfl
  | len :: lens, g, hg => by
    have htail := run_scale hB idx c lens (canonicalList_layer hB len (128 / len) (idx len) hg)
    rwa [← layer_scale hB c len _ _ hg] at htail

/-! ### The refinements -/

/-- Settles O10: each layer's loop is the layer of blocks, with the running index, and a layer's butterflies give
canonical values. -/
theorem nttMatchesLoop : Obligations.NttMatchesLoop := by
  intro f
  refine ⟨by rw [toList_ntt, nttLoop_eq f.length_toList], fun hf => ?_⟩
  rw [canonicalElem_iff_toList] at hf ⊢
  rw [toList_ntt, nttList_eq_run]
  exact canonicalList_run forward_modular _ _ hf

theorem scaleLoop_inttLoop {f : List Coeff} (hf : f.length = 256) : scaleLoop (inttLoop f).1 = inttList f := by
  have hlen : (Butterfly.inverse.run (256 / · - 1) invLens f).length = 256 := by
    have h := length_inttList f hf
    rwa [inttList_eq_run, List.length_map] at h
  rw [inttLoop_eq hf, scaleLoop_eq_map hlen, inttList_eq_run]

/-- Settles O11: each layer's loop is the layer of blocks, with the running index, and the scaling loop is a map. -/
theorem inttMatchesLoop : Obligations.InttMatchesLoop := by
  refine ⟨fun f => ⟨?_, ?_⟩, zt_mul_zt_mod⟩
  · rw [inttLoop_eq f.length_toList]
  · rw [toList_intt, scaleLoop_inttLoop f.length_toList]

end Sys2Proof.Proofs

namespace Sys2Proof.Proofs

open Sys2Proof.Machine Sys2Proof.Safety Sys2Proof.Laws

/-! ### The inverse law (41_ntt.md R145)

A layer of one butterfly followed by the same layer of the other doubles every coefficient, since the two twiddles of a
block have the product -1. Scaling goes through the other layers, so the seven layers give the factor 128, and INV128
takes it off. -/

/-- With twiddles of product -1, `B'` takes the values of `B` back, but for a factor 2. -/
def Butterfly.Undoes (B' B : Butterfly) : Prop :=
  ∀ {z z' x y : Coeff}, residue z' * residue z = -1 → x.toNat < 3329 → y.toNat < 3329 →
    B'.top z' (B.top z x y) (B.bottom z x y) = modMul x 2 ∧
    B'.bottom z' (B.top z x y) (B.bottom z x y) = modMul y 2

theorem residue_two : residue 2 = 2 := rfl

theorem inverse_undoes_forward : Butterfly.inverse.Undoes Butterfly.forward := by
  intro z z' x y hz hx hy
  obtain ⟨ht, hb⟩ := forward_lt (z := z) (y := y) hx
  constructor
  · refine eq_of_residue_eq (inverse_lt (z := z') ht hb).1 (modMul_lt x 2) ?_
    rw [residue_inverse_top ht hb, residue_forward_top hx, residue_forward_bottom hx, residue_modMul, residue_two]
    ring
  · refine eq_of_residue_eq (inverse_lt ht hb).2 (modMul_lt y 2) ?_
    rw [residue_inverse_bottom ht hb, residue_forward_top hx, residue_forward_bottom hx, residue_modMul, residue_two]
    linear_combination (-2 * residue y) * hz

theorem forward_undoes_inverse : Butterfly.forward.Undoes Butterfly.inverse := by
  intro z z' x y hz hx hy
  obtain ⟨ht, hb⟩ := inverse_lt (z := z) hx hy
  constructor
  · refine eq_of_residue_eq (forward_lt ht).1 (modMul_lt x 2) ?_
    rw [residue_forward_top ht, residue_inverse_top hx hy, residue_inverse_bottom hx hy, residue_modMul, residue_two]
    linear_combination (residue y - residue x) * hz
  · refine eq_of_residue_eq (forward_lt ht).2 (modMul_lt y 2) ?_
    rw [residue_forward_bottom ht, residue_inverse_top hx hy, residue_inverse_bottom hx hy, residue_modMul, residue_two]
    linear_combination (residue x - residue y) * hz

theorem zipWith_undoes {B' B : Butterfly} (hU : B'.Undoes B) {z z' : Coeff} (hz : residue z' * residue z = -1) :
    ∀ {lo hi : List Coeff}, CanonicalList lo → CanonicalList hi → lo.length = hi.length →
    List.zipWith (B'.top z') (List.zipWith (B.top z) lo hi) (List.zipWith (B.bottom z) lo hi) = scale 2 lo ∧
    List.zipWith (B'.bottom z') (List.zipWith (B.top z) lo hi) (List.zipWith (B.bottom z) lo hi) = scale 2 hi
  | [], [], _, _, _ => ⟨rfl, rfl⟩
  | x :: lo, y :: hi, hlo, hhi, h => by
    obtain ⟨hx, hlo⟩ := canonicalList_cons.mp hlo
    obtain ⟨hy, hhi⟩ := canonicalList_cons.mp hhi
    obtain ⟨htop, hbottom⟩ := hU hz hx hy
    obtain ⟨hlo', hhi'⟩ := zipWith_undoes hU hz hlo hhi (Nat.succ_injective h)
    exact ⟨congrArg₂ List.cons htop hlo', congrArg₂ List.cons hbottom hhi'⟩

/-- A layer undone, where the `n` blocks from the indices `i` and `i'` on have twiddles of product -1. -/
theorem layer_layer {B' B : Butterfly} (hU : B'.Undoes B) (len : Nat) : ∀ (n i i' : Nat) {g : List Coeff},
    (∀ b < n, residue (zt (B'.next^[b] i')) * residue (zt (B.next^[b] i)) = -1) → CanonicalList g →
    g.length = 2 * len * n → B'.layer len n i' (B.layer len n i g) = scale 2 g
  | 0, _, _, g, _, _, hlen => by
    have hnil : g = [] := List.length_eq_zero_iff.mp hlen
    simp [hnil, Butterfly.layer, scale]
  | n + 1, i, i', g, hz, hg, hlen => by
    obtain ⟨lo, hi, q, rfl, hlo, hhi, hq⟩ := exists_block_append hlen
    obtain ⟨hblock, hgq⟩ := canonicalList_append.mp hg
    obtain ⟨hglo, hghi⟩ := canonicalList_append.mp hblock
    have hz0 : residue (zt i') * residue (zt i) = -1 := hz 0 n.succ_pos
    obtain ⟨htop, hbottom⟩ := zipWith_undoes hU hz0 hglo hghi (hlo.trans hhi.symm)
    have hrest := layer_layer hU len n (B.next i) (B'.next i') (fun b hb => hz (b + 1) (Nat.succ_lt_succ hb)) hgq hq
    rw [layer_succ_append B n i q hlo hhi, Butterfly.block, layer_succ_append B' n i' _ (by simp [hlo, hhi])
      (by simp [hlo, hhi]), hrest, Butterfly.block, htop, hbottom, scale_append, scale_append]

/-- The twiddles of each layer's blocks, the two butterflies' table indices from `idx'` and `idx` on, have the product
-1. -/
def Butterfly.Opposite (B' B : Butterfly) (idx' idx : Nat → Nat) (lens : List Nat) : Prop :=
  ∀ len ∈ lens, 2 * len * (128 / len) = 256 ∧
    ∀ b < 128 / len, residue (zt (B'.next^[b] (idx' len))) * residue (zt (B.next^[b] (idx len))) = -1

theorem length_run (B : Butterfly) (idx : Nat → Nat) : ∀ (lens : List Nat) {g : List Coeff},
    (∀ len ∈ lens, 2 * len * (128 / len) = 256) → g.length = 256 → (B.run idx lens g).length = 256
  | [], _, _, hg => hg
  | _ :: lens, _, hlens, hg =>
    have ⟨hn, hlens⟩ := List.forall_mem_cons.mp hlens
    length_run B idx lens hlens (length_layer_of_cover B hn _ hg)

/-- A run undone layer by layer, the last layer first: every coefficient gains a factor 2 a layer. -/
theorem run_reverse_run {B' B : Butterfly} (hB' : B'.Modular) (hB : B.Modular) (hU : B'.Undoes B)
    {idx' idx : Nat → Nat} {g : List Coeff} (hg : CanonicalList g) (hlen : g.length = 256) (lens : List Nat)
    (hz : B'.Opposite B idx' idx lens) :
    B'.run idx' lens.reverse (B.run idx lens g) = (scale 2)^[lens.length] g := by
  induction lens using List.reverseRecOn with
  | nil => rfl
  | append_singleton lens len ih =>
    obtain ⟨hz, hzlen⟩ := List.forall_mem_append.mp hz
    obtain ⟨hn, htwiddles⟩ := hzlen len (List.mem_singleton_self len)
    have hgr := canonicalList_run hB idx lens hg
    have hlast := layer_layer hU len _ _ _ htwiddles hgr
      ((length_run B idx lens (fun l hl => (hz l hl).1) hlen).trans hn.symm)
    calc B'.run idx' (lens ++ [len]).reverse (B.run idx (lens ++ [len]) g)
        = B'.run idx' lens.reverse (scale 2 (B.run idx lens g)) := by
          rw [← hlast, List.reverse_concat, Butterfly.run, Butterfly.run, List.foldl_append]
          rfl
      _ = scale 2 (B'.run idx' lens.reverse (B.run idx lens g)) := run_scale hB' idx' 2 _ hgr
      _ = (scale 2)^[(lens ++ [len]).length] g := by
          rw [ih hz, List.length_append, List.length_singleton, Function.iterate_succ_apply']

theorem scale_scale (c d : Coeff) (g : List Coeff) : scale c (scale d g) = scale (modMul d c) g := by
  simp only [scale, List.map_map]
  refine List.map_congr_left fun x _ => eq_of_residue_eq (modMul_lt _ _) (modMul_lt _ _) ?_
  simp only [Function.comp_apply, residue_modMul]
  ring

/-- Scaling by the inverse of a power of 2 takes off that many doublings. -/
theorem scale_iterate_scale_two {g : List Coeff} (hg : CanonicalList g) : ∀ (n : Nat) {c : Coeff},
    residue c * 2 ^ n = 1 → scale c ((scale 2)^[n] g) = g
  | 0, c, hc => by
    rw [pow_zero, mul_one] at hc
    refine (List.map_congr_left fun x hx => eq_of_residue_eq (modMul_lt x c) (hg x hx) ?_).trans (List.map_id g)
    rw [residue_modMul, hc, mul_one]
  | n + 1, c, hc => by
    rw [Function.iterate_succ_apply', scale_scale]
    refine scale_iterate_scale_two hg n ?_
    rw [residue_modMul, residue_two, ← hc]
    ring

/-- INV128 is the inverse of 128 (41_ntt.md R147). -/
theorem residue_inv128 : residue inv128 * 2 ^ 7 = 1 := rfl

theorem inverse_opposite_forward :
    Butterfly.inverse.Opposite Butterfly.forward (256 / · - 1) (128 / ·) fwdLens := by
  intro len hlen
  have hmem : len ∈ invLens := List.mem_reverse.mp hlen
  refine ⟨?_, fun b hb => ?_⟩
  · revert len; decide
  · rw [inverse_next_iterate, forward_next_iterate]
    exact residue_zt_mul_residue_zt hmem hb

theorem forward_opposite_inverse :
    Butterfly.forward.Opposite Butterfly.inverse (128 / ·) (256 / · - 1) invLens := by
  intro len hlen
  obtain ⟨hn, hz⟩ := inverse_opposite_forward len (List.mem_reverse.mp hlen)
  exact ⟨hn, fun b hb => (mul_comm _ _).trans (hz b hb)⟩

theorem inttList_nttList {f : List Coeff} (hf : CanonicalList f) (hlen : f.length = 256) :
    inttList (nttList f) = f := by
  have hrun := run_reverse_run inverse_modular forward_modular inverse_undoes_forward hf hlen fwdLens
    inverse_opposite_forward
  calc inttList (nttList f)
      = scale inv128 (Butterfly.inverse.run (256 / · - 1) fwdLens.reverse
          (Butterfly.forward.run (128 / ·) fwdLens f)) := by rw [inttList_eq_run, nttList_eq_run]; rfl
    _ = f := by rw [hrun]; exact scale_iterate_scale_two hf 7 residue_inv128

theorem nttList_inttList {f : List Coeff} (hf : CanonicalList f) (hlen : f.length = 256) :
    nttList (inttList f) = f := by
  have hrun := run_reverse_run forward_modular inverse_modular forward_undoes_inverse hf hlen invLens
    forward_opposite_inverse
  calc nttList (inttList f)
      = Butterfly.forward.run (128 / ·) invLens.reverse
          (scale inv128 (Butterfly.inverse.run (256 / · - 1) invLens f)) := by
        rw [inttList_eq_run, nttList_eq_run]; rfl
    _ = scale inv128 (Butterfly.forward.run (128 / ·) invLens.reverse
          (Butterfly.inverse.run (256 / · - 1) invLens f)) :=
        run_scale forward_modular _ _ _ (canonicalList_run inverse_modular _ _ hf)
    _ = f := by rw [hrun]; exact scale_iterate_scale_two hf 7 residue_inv128

/-- Settles O12: each transform undoes the other layer by layer, but for a factor that INV128 takes off. -/
theorem inverseLaw : Obligations.InverseLaw := by
  intro p hp
  rw [canonicalElem_iff_toList] at hp
  constructor <;> rw [← Vector.toList_inj]
  · rw [toList_intt, toList_ntt, inttList_nttList hp p.length_toList]
  · rw [toList_ntt, toList_intt, nttList_inttList hp p.length_toList]

end Sys2Proof.Proofs

namespace Sys2Proof.Proofs

open Sys2Proof.Machine Sys2Proof.Safety Sys2Proof.Laws

/-! ### What holds of every command rule (60_exceptions.md R224, R226) -/

/-- With the gate open, a CMD write of a command that fails its domain check is the record alone. -/
theorem onCmdWrite_of_domain {s : State} {w : Word} {i : Instr} (he : s.err = false) (hb : s.busy = false)
    (hw : decode w = .command i) (hr : rangeOk s.k i = true) (hd : domainOk s i = false) :
    s.onCmdWrite w = s.record .domain w := by
  simp [State.onCmdWrite, State.cmdError, he, hb, hw, hr, hd]

/-- With the gate open, a CMD write of a command that passes its checks is accepted. -/
theorem onCmdWrite_of_checked {s : State} {w : Word} {i : Instr} (he : s.err = false) (hb : s.busy = false)
    (hw : decode w = .command i) (hr : rangeOk s.k i = true) (hd : domainOk s i = true) :
    s.onCmdWrite w = s.accept w := by
  simp [State.onCmdWrite, he, hb, hw, hr, hd]

theorem onCmdWrite_of_err {s : State} (w : Word) (he : s.err = true) : s.onCmdWrite w = s := by
  simp [State.onCmdWrite, he]

theorem onCmdWrite_of_busy {s : State} (w : Word) (he : s.err = false) (hb : s.busy = true) :
    s.onCmdWrite w = s.record .cmdBusy w := by
  simp [State.onCmdWrite, State.cmdError, he, hb]

/-- A command whose checks pass is accepted at the CMD write. -/
theorem accepted_of_checked {i : Instr} {s : State} (hdec : decode (encode i) = .command i)
    (hr : rangeOk s.k i = true) (hd : domainOk s i = true) : Accepted i s :=
  fun he hb => onCmdWrite_of_checked he hb hdec hr hd

/-- A command whose range check passes and whose domain check fails raises DOMAIN, at the CMD write and in its rule. -/
theorem raises_domain {i : Instr} {s : State} (hdec : decode (encode i) = .command i) (hr : rangeOk s.k i = true)
    (hd : domainOk s i = false) : Raises .domain i s := by
  obtain ⟨f, hf⟩ := exec_is_runChecked i s
  have hexec : exec i s = .next (s.record .domain (encode i)) := by
    rw [hf]
    simp [runChecked, State.cmdError, hr, hd]
  exact ⟨⟨_, hexec, raisedFrom_record _ _ s⟩,
    fun he hb => onCmdWrite_of_domain he hb hdec hr hd ▸ raisedFrom_record _ _ s⟩

/-- The engine's turn with a command pending is the command's meaning, then its completion (10_state.md R40). -/
theorem engineStep_of_pending {i : Instr} {s t : State} {w : Word} (hw : decode w = .command i) (hr : s.rst = false)
    (hp : s.pend = { valid := true, word := w }) (h : exec i s = .next t) : s.engineStep = .next t.complete := by
  simp [State.engineStep, hr, hp, hw, h]

/-- A command whose word has its opcode's row and decodes to it is issued like every command, under the mask of the
row's format. -/
theorem issuedLikeEveryCommand {i : Instr} {word : Word} {f : Format} {c : Fields → Instr} (henc : encode i = word)
    (hrow : opcodeRow (opcodeOf word) = some (f, c)) (hdec : decode word = .command i) :
    IssuedLikeEveryCommand i word f.zmask := by
  refine ⟨henc, fun w hopc hbit => ?_, fun s he => onCmdWrite_of_err word he,
    fun s he hb => onCmdWrite_of_busy word he hb ▸ raisedFrom_record _ _ s,
    fun s t hr hp h => engineStep_of_pending hdec hr hp h⟩
  have hw : decode w = .reserved := by
    refine (decode_eq_reserved_iff (c := c) ?_).mpr hbit
    rwa [opcodeOf, hopc]
  exact ⟨hw, fun s he hb => onCmdWrite_of_reserved he hb hw ▸ raisedFrom_record _ _ s⟩

/-- The frame of a command that writes one slot. -/
theorem framedBy_writeSlot (s : State) (d : Slot) (p : RingElem) (t : Domain) :
    FramedBy [d] s (s.writeSlot d p t) :=
  ⟨writeSlot_only s d p t, fun e he =>
    have hne : e ≠ d := fun h => he (List.mem_singleton.mpr h)
    ⟨slot_writeSlot_ne s d e p t hne, tag_writeSlot_ne s d e p t hne⟩⟩

/-! ### Words of format F2 (30_encoding.md R93) -/

/-- The bits of the mask of F2 lie between the two operand fields and above them. -/
theorem zmask_f2_bits : ∀ i < 32, Format.f2.zmask.getLsbD i = true → 13 ≤ i ∧ i < 16 ∨ 21 ≤ i := by
  decide

/-- A packed word without a third operand has no bit under the mask of F2. -/
theorem packWord_and_zmask_f2 (d a : Slot) {opc : Nat} (ho : opc < 256) :
    packWord 0 a d opc &&& Format.f2.zmask = 0 := by
  refine and_eq_zero_of_getLsbD fun i hi hm => getLsbD_eq_of_div_mod ?_
  rw [toNat_packWord 0 a d opc (by decide) a.isLt d.isLt ho, Bool.toNat_false]
  rcases zmask_f2_bits i hi hm with ⟨hlo, hhi⟩ | hhigh
  · interval_cases i <;> omega
  · have hpow : 2 ^ 21 ≤ 2 ^ i := Nat.pow_le_pow_right (by decide) hhigh
    rw [Nat.div_eq_of_lt (by omega)]

/-- A packed word of format F2 decodes to the command of its opcode's row, with its two operands. -/
theorem decode_packWord_f2 (d a : Slot) {opc : Nat} {c : Fields → Instr} (ho : opc < 256)
    (hrow : opcodeRow opc = some (.f2, c)) :
    ∃ fields : Fields, fields.rd = d ∧ fields.ra = a ∧ decode (packWord 0 a d opc) = .command (c fields) := by
  have hopc : opcodeRow (opcodeOf (packWord 0 a d opc)) = some (.f2, c) := by
    rwa [opcodeOf_packWord 0 a d opc (by decide) a.isLt d.isLt ho]
  refine ⟨fieldsOf (packWord 0 a d opc), Fin.ext (rd_packWord 0 a d opc (by decide) a.isLt d.isLt ho),
    Fin.ext (ra_packWord 0 a d opc (by decide) a.isLt d.isLt ho), ?_⟩
  rw [decode_of_row hopc, packWord_and_zmask_f2 d a ho, if_neg (not_not.mpr rfl)]

/-- A command of format F2 is issued like every command, under the mask of F2. -/
theorem issuedLikeEveryCommand_f2 {i : Instr} (d a : Slot) {opc : Nat} {c : Fields → Instr} (ho : opc < 256)
    (hrow : opcodeRow opc = some (.f2, c)) (henc : encode i = packWord 0 a d opc)
    (hdec : decode (encode i) = .command i) :
    IssuedLikeEveryCommand i (BitVec.ofNat 32 (a.val * 2 ^ 16 + d.val * 2 ^ 8 + opc)) Format.f2.zmask := by
  have hword : packWord 0 a d opc = BitVec.ofNat 32 (a.val * 2 ^ 16 + d.val * 2 ^ 8 + opc) := by
    rw [packWord, zero_mul, zero_add]
  have hopc : opcodeRow (opcodeOf (packWord 0 a d opc)) = some (.f2, c) := by
    rwa [opcodeOf_packWord 0 a d opc (by decide) a.isLt d.isLt ho]
  rw [henc] at hdec
  rw [← hword]
  exact issuedLikeEveryCommand henc hopc hdec

/-! ### PNTT and PINTT (41_ntt.md R150, R151) -/

theorem decode_encode_pntt (d a : Slot) : decode (encode (.pntt d a)) = .command (.pntt d a) := by
  obtain ⟨_, rfl, rfl, hdec⟩ := decode_packWord_f2 d a (opc := 0x03) (by decide) rfl
  exact hdec

theorem decode_encode_pintt (d a : Slot) : decode (encode (.pintt d a)) = .command (.pintt d a) := by
  obtain ⟨_, rfl, rfl, hdec⟩ := decode_packWord_f2 d a (opc := 0x04) (by decide) rfl
  exact hdec

theorem exec_pntt {s : State} (d : Slot) {a : Slot} (h : s.tag a = .normal) :
    exec (.pntt d a) s = .next (s.writeSlot d (ntt (s.slot a)) .ntt) :=
  runChecked_ok (.pntt d a) s (fun s => s.writeSlot d (ntt (s.slot a)) .ntt) rfl (decide_eq_true h)

theorem exec_pintt {s : State} (d : Slot) {a : Slot} (h : s.tag a = .ntt) :
    exec (.pintt d a) s = .next (s.writeSlot d (intt (s.slot a)) .normal) :=
  runChecked_ok (.pintt d a) s (fun s => s.writeSlot d (intt (s.slot a)) .normal) rfl (decide_eq_true h)

/-- Settles O21: by the domain check; the result is the loop nest of R142 by O10. -/
theorem pnttRule : Obligations.PnttRule := by
  intro d a
  have hdec := decode_encode_pntt d a
  refine ⟨issuedLikeEveryCommand_f2 d a (by decide) rfl rfl hdec, fun s => ⟨fun h => ?_, fun h => ?_⟩⟩
  · exact raises_domain hdec rfl (decide_eq_false h)
  · refine ⟨accepted_of_checked hdec rfl (decide_eq_true h), _, exec_pntt d h, framedBy_writeSlot s d _ _,
      tag_writeSlot_self s d _ _, ?_⟩
    rw [slot_writeSlot_self, (nttMatchesLoop (s.slot a)).1]

/-- Settles O22: by the domain check; the result is the loop nest and scaling of R144, as in O11. -/
theorem pinttRule : Obligations.PinttRule := by
  intro d a
  have hdec := decode_encode_pintt d a
  refine ⟨issuedLikeEveryCommand_f2 d a (by decide) rfl rfl hdec, fun s => ⟨fun h => ?_, fun h => ?_⟩⟩
  · exact raises_domain hdec rfl (decide_eq_false h)
  · refine ⟨accepted_of_checked hdec rfl (decide_eq_true h), _, exec_pintt d h, framedBy_writeSlot s d _ _,
      tag_writeSlot_self s d _ _, ?_⟩
    rw [slot_writeSlot_self, toList_intt, scaleLoop_inttLoop (s.slot a).length_toList]

end Sys2Proof.Proofs

namespace Sys2Proof.Proofs

open Sys2Proof.Machine Sys2Proof.Safety Sys2Proof.Laws

/-! ### The two formulas of BaseMul (42_pointwise.md R160, R162) -/

/-- The product of any two cells, canonical or not. -/
theorem toNat_mul_toNat_le (a b : Coeff) : a.toNat * b.toNat ≤ 4095 * 4095 :=
  Nat.mul_le_mul (Nat.le_of_lt_succ a.isLt) (Nat.le_of_lt_succ b.isLt)

theorem toNat_baseMulLow (z f0 f1 g0 g1 : Coeff) :
    (baseMulLow z f0 f1 g0 g1).toNat = (f0.toNat * g0.toNat + f1.toNat * g1.toNat * z.toNat) % 3329 := by
  have hp := toNat_mul_toNat_le (modMul f1 g1) z
  have hf := toNat_mul_toNat_le f0 g0
  rw [baseMulLow, barrett_eq_mod (by omega), toNat_coeffOfNat_mod, toNat_modMul_of_cells, Nat.add_comm]
  exact Nat.ModEq.add_left _ ((Nat.mod_modEq _ _).mul_right _)

theorem toNat_baseMulHigh (f0 f1 g0 g1 : Coeff) :
    (baseMulHigh f0 f1 g0 g1).toNat = (f0.toNat * g1.toNat + f1.toNat * g0.toNat) % 3329 := by
  have h0 := toNat_mul_toNat_le f0 g1
  have h1 := toNat_mul_toNat_le f1 g0
  rw [baseMulHigh, barrett_eq_mod (by omega), toNat_coeffOfNat_mod]

/-- Pair `i` of the pair products that begin with twiddle `k`. -/
theorem at'_baseMulPairs : ∀ (i k : Nat) {f g : List Coeff}, 2 * i + 1 < f.length → 2 * i + 1 < g.length →
    at' (baseMulPairs k f g) (2 * i) =
      baseMulLow (gam (k + i)) (at' f (2 * i)) (at' f (2 * i + 1)) (at' g (2 * i)) (at' g (2 * i + 1)) ∧
    at' (baseMulPairs k f g) (2 * i + 1) =
      baseMulHigh (at' f (2 * i)) (at' f (2 * i + 1)) (at' g (2 * i)) (at' g (2 * i + 1))
  | 0, _, _ :: _ :: _, _ :: _ :: _, _, _ => ⟨rfl, rfl⟩
  | i + 1, k, _ :: _ :: f, _ :: _ :: g, hf, hg => by
    have ih := at'_baseMulPairs i (k + 1) (f := f) (g := g) (Nat.lt_of_succ_lt_succ (Nat.lt_of_succ_lt_succ hf))
      (Nat.lt_of_succ_lt_succ (Nat.lt_of_succ_lt_succ hg))
    rw [Nat.add_right_comm, Nat.add_assoc] at ih
    exact ih

theorem toNat_gam {i : Nat} (hi : i < 128) : (gam i).toNat = gamma i :=
  have ⟨htables, _⟩ := twiddleTables
  (htables ⟨i, hi⟩).2

/-- The first formula of R160, of any two cells. -/
theorem coeffAt_baseMul_even (f g : RingElem) {i : Nat} (hi : i < 128) :
    coeffAt (baseMul f g) (2 * i) =
      (coeffAt f (2 * i) * coeffAt g (2 * i) +
        coeffAt f (2 * i + 1) * coeffAt g (2 * i + 1) * gamma i) % 3329 := by
  have hlen (p : RingElem) : 2 * i + 1 < p.toList.length := by rw [p.length_toList]; omega
  have h := (at'_baseMulPairs i 0 (hlen f) (hlen g)).1
  rw [Nat.zero_add, ← toList_baseMul] at h
  rw [← toNat_gam hi]
  exact (congrArg BitVec.toNat h).trans (toNat_baseMulLow _ _ _ _ _)

/-- The second formula of R160, of any two cells. -/
theorem coeffAt_baseMul_odd (f g : RingElem) {i : Nat} (hi : i < 128) :
    coeffAt (baseMul f g) (2 * i + 1) =
      (coeffAt f (2 * i) * coeffAt g (2 * i + 1) + coeffAt f (2 * i + 1) * coeffAt g (2 * i)) % 3329 := by
  have hlen (p : RingElem) : 2 * i + 1 < p.toList.length := by rw [p.length_toList]; omega
  have h := (at'_baseMulPairs i 0 (hlen f) (hlen g)).2
  rw [← toList_baseMul] at h
  exact (congrArg BitVec.toNat h).trans (toNat_baseMulHigh _ _ _ _)

/-- Settles O16: the reducer is exact on its two arguments of R162, and the table holds GAM. -/
theorem baseMulFormula : Obligations.BaseMulFormula := fun f g _ _ i =>
  ⟨coeffAt_baseMul_even f g i.isLt, coeffAt_baseMul_odd f g i.isLt⟩

/-- The two formulas of R160 as one, by the parity of the index. -/
theorem coeffAt_baseMul (f g : RingElem) {n : Nat} (hn : n < 256) :
    coeffAt (baseMul f g) n = baseMulCoeff f g n := by
  have hi : n / 2 < 128 := by omega
  unfold baseMulCoeff
  split
  next heven =>
    have h := coeffAt_baseMul_even f g hi
    rwa [Nat.two_mul_div_two_of_even (Nat.even_iff.mpr heven)] at h
  next hodd =>
    have h := coeffAt_baseMul_odd f g hi
    rw [Nat.two_mul_div_two_add_one_of_odd (Nat.odd_iff.mpr (by omega))] at h
    rwa [show 2 * (n / 2) = n - 1 by omega] at h

end Sys2Proof.Proofs

namespace Sys2Proof.Proofs

open Sys2Proof.Machine Sys2Proof.Safety Sys2Proof.Laws

/-! ### NTT is evaluation at a root (41_ntt.md R143)

In a ring over Z_Q where `x ^ len` is the twiddle of a block, or minus it, the block's butterflies turn its value at `x`
into the value of its first, or its second, half. So layer after layer the value of `f` at a root of `X^2 - GAM[i]` goes
to one half of a block, in the end to pair `i`. -/

section Evaluation

variable {R : Type*} [CommRing R] [Algebra (ZMod 3329) R]

/-- The polynomial with the listed coefficients, constant first, at `x`. -/
def evalAt (x : R) : List Coeff → R
  | [] => 0
  | c :: g => algebraMap (ZMod 3329) R (residue c) + x * evalAt x g

theorem evalAt_append (x : R) (h : List Coeff) : ∀ g : List Coeff,
    evalAt x (g ++ h) = evalAt x g + x ^ g.length * evalAt x h
  | [] => by simp [evalAt]
  | c :: g => by
    rw [List.cons_append, evalAt, evalAt_append x h g, evalAt, List.length_cons]
    ring

/-- Where an operation adds a multiple of its second operand to its first, so do the values of the lists. -/
theorem evalAt_zipWith (x : R) {f : Coeff → Coeff → Coeff} {s : ZMod 3329}
    (hf : ∀ {c d : Coeff}, c.toNat < 3329 → residue (f c d) = residue c + s * residue d) : ∀ {lo hi : List Coeff},
    CanonicalList lo → lo.length = hi.length →
    evalAt x (List.zipWith f lo hi) = evalAt x lo + algebraMap (ZMod 3329) R s * evalAt x hi
  | [], [], _, _ => by simp [evalAt]
  | _ :: _, _ :: _, hlo, hlen => by
    obtain ⟨hc, hlo⟩ := canonicalList_cons.mp hlo
    rw [List.zipWith_cons_cons, evalAt, hf hc, evalAt_zipWith x hf hlo (Nat.succ_injective hlen), evalAt, evalAt,
      map_add, map_mul]
    ring

theorem evalAt_zipWith_top (x : R) (z : Coeff) {lo hi : List Coeff} (hlo : CanonicalList lo)
    (hlen : lo.length = hi.length) :
    evalAt x (List.zipWith (Butterfly.forward.top z) lo hi) =
      evalAt x lo + algebraMap (ZMod 3329) R (residue z) * evalAt x hi :=
  evalAt_zipWith x residue_forward_top hlo hlen

theorem evalAt_zipWith_bottom (x : R) (z : Coeff) {lo hi : List Coeff} (hlo : CanonicalList lo)
    (hlen : lo.length = hi.length) :
    evalAt x (List.zipWith (Butterfly.forward.bottom z) lo hi) =
      evalAt x lo + algebraMap (ZMod 3329) R (-residue z) * evalAt x hi :=
  evalAt_zipWith x (fun hc => by rw [residue_forward_bottom hc, neg_mul, sub_eq_add_neg]) hlo hlen

end Evaluation

/-! #### The parts of a list that a layer's blocks cover -/

/-- Part `j` of a list cut into parts of `len` coefficients. -/
def part (len j : Nat) (g : List Coeff) : List Coeff := (g.drop (len * j)).take len

theorem length_part {len n j : Nat} {g : List Coeff} (hg : g.length = len * n) (hj : j < n) :
    (part len j g).length = len := by
  have hle : len * (j + 1) ≤ len * n := Nat.mul_le_mul_left len hj
  rw [Nat.mul_succ] at hle
  rw [part, List.length_take, List.length_drop]
  omega

/-- The length of a half of a block, where `n` blocks make up the list. -/
theorem length_part_half {len n k : Nat} {g : List Coeff} (hg : g.length = 2 * len * n) (hk : k < 2 * n) :
    (part len k g).length = len :=
  length_part (n := 2 * n) (by rw [hg]; ring) hk

theorem canonicalList_part {g : List Coeff} (hg : CanonicalList g) (len j : Nat) : CanonicalList (part len j g) :=
  (hg.drop _).take _

/-- A part is its two halves. -/
theorem part_two_mul (len j : Nat) (g : List Coeff) :
    part (2 * len) j g = part len (2 * j) g ++ part len (2 * j + 1) g := by
  have hfst : len * (2 * j) = 2 * len * j := by ring
  have hsnd : len * (2 * j + 1) = 2 * len * j + len := by ring
  rw [part, part, part, two_mul, List.take_add, List.drop_drop, ← two_mul, hfst, hsnd]

theorem part_drop (len k j : Nat) (g : List Coeff) : part len j (g.drop (len * k)) = part len (j + k) g := by
  rw [part, part, List.drop_drop, ← Nat.mul_add, Nat.add_comm k]

theorem part_zero_append {len : Nat} {p : List Coeff} (hp : p.length = len) (q : List Coeff) :
    part len 0 (p ++ q) = p := by
  subst hp
  exact List.take_left

theorem part_succ_append {len : Nat} {p : List Coeff} (hp : p.length = len) (j : Nat) (q : List Coeff) :
    part len (j + 1) (p ++ q) = part len j q := by
  subst hp
  rw [part, Nat.mul_succ, Nat.add_comm, ← List.drop_drop, List.drop_left, part]

/-- Block `j` of a layer comes from the two halves of part `j` of the list. -/
theorem part_layer (B : Butterfly) (len : Nat) : ∀ (n i j : Nat) {g : List Coeff}, g.length = 2 * len * n →
    j < n →
    part (2 * len) j (B.layer len n i g) = B.block (zt (B.next^[j] i)) (part len (2 * j) g) (part len (2 * j + 1) g)
  | n + 1, i, j, g, hg, hj => by
    have hlayer : B.layer len (n + 1) i g =
        B.block (zt i) (part len 0 g) (part len 1 g) ++ B.layer len n (B.next i) (g.drop (2 * len)) := by
      rw [Butterfly.layer, part, part, Nat.mul_one]
      rfl
    have hlo : (part len 0 g).length = len := length_part_half hg (by omega)
    have hhi : (part len 1 g).length = len := length_part_half hg (by omega)
    have hblock : (B.block (zt i) (part len 0 g) (part len 1 g)).length = 2 * len := by
      rw [length_block B _ (hlo.trans hhi.symm), hlo]
    rw [hlayer]
    cases j with
    | zero => exact part_zero_append hblock _
    | succ j =>
      have hrest : (g.drop (2 * len)).length = 2 * len * n := by
        rw [List.length_drop, hg, Nat.mul_succ, Nat.add_sub_cancel]
      rw [part_succ_append hblock, part_layer B len n (B.next i) j hrest (Nat.lt_of_succ_lt_succ hj),
        Nat.mul_comm 2 len, part_drop, part_drop]
      rfl

/-- The halves of block `j` of a layer are its top and its bottom values. -/
theorem part_layer_halves (B : Butterfly) {len n j : Nat} (i : Nat) {g : List Coeff} (hg : g.length = 2 * len * n)
    (hj : j < n) :
    part len (2 * j) (B.layer len n i g) =
      List.zipWith (B.top (zt (B.next^[j] i))) (part len (2 * j) g) (part len (2 * j + 1) g) ∧
    part len (2 * j + 1) (B.layer len n i g) =
      List.zipWith (B.bottom (zt (B.next^[j] i))) (part len (2 * j) g) (part len (2 * j + 1) g) := by
  have hblock := part_layer B len n i j hg hj
  rw [part_two_mul, Butterfly.block] at hblock
  refine List.append_inj hblock ?_
  rw [length_part_half (length_layer B len n i g hg) (by omega), List.length_zipWith, length_part_half hg (by omega),
    length_part_half hg (by omega), min_self]

section Evaluation

variable {R : Type*} [CommRing R] [Algebra (ZMod 3329) R]

/-- A layer keeps the value at `x` of one half of a block, where `x ^ len` is the block's twiddle (first half) or minus
it (second half). -/
theorem evalAt_part_layer {x : R} {len n i b : Nat} {g : List Coeff} (hg : CanonicalList g)
    (hlen : g.length = 2 * len * n) (hb : b < 2 * n)
    (hx : x ^ len = algebraMap (ZMod 3329) R ((-1) ^ b * residue (zt (i + b / 2)))) :
    evalAt x (part len b (Butterfly.forward.layer len n i g)) = evalAt x (part (2 * len) (b / 2) g) := by
  obtain ⟨j, hj⟩ := Nat.even_or_odd' b
  have hhalf : b / 2 = j := by omega
  rw [hhalf] at hx ⊢
  have hlo : (part len (2 * j) g).length = len := length_part_half hlen (by omega)
  have hhi : (part len (2 * j + 1) g).length = len := length_part_half hlen (by omega)
  have hglo := canonicalList_part hg len (2 * j)
  obtain ⟨htop, hbottom⟩ := part_layer_halves Butterfly.forward i hlen (j := j) (by omega)
  rw [part_two_mul, evalAt_append, hlo, hx]
  rcases hj with rfl | rfl
  · rw [htop, evalAt_zipWith_top x _ hglo (hlo.trans hhi.symm), forward_next_iterate,
      (even_two_mul j).neg_one_pow, one_mul]
  · rw [hbottom, evalAt_zipWith_bottom x _ hglo (hlo.trans hhi.symm), forward_next_iterate,
      (odd_two_mul_add_one j).neg_one_pow, neg_one_mul]

/-- `x` is a root for coefficient `m` of the transform: at each layer `len`, `x ^ len` is the twiddle of the block that
`m` lies in, with the sign of the half. -/
def IsRootFor (m : Nat) (x : R) (lens : List Nat) : Prop :=
  ∀ len ∈ lens, 2 * len * (128 / len) = 256 ∧
    x ^ len = algebraMap (ZMod 3329) R ((-1) ^ (m / len) * residue (zt (128 / len + m / len / 2)))

/-- Layers of halving length keep the value at a root, in the part that coefficient `m` lies in. -/
theorem evalAt_part_run {x : R} {m : Nat} (hm : m < 256) : ∀ (len : Nat) (lens : List Nat) {g : List Coeff},
    List.IsChain (fun len len' => len = 2 * len') (len :: lens) → IsRootFor m x lens → CanonicalList g →
    g.length = 256 →
    evalAt x (part (lens.getLastD len) (m / lens.getLastD len) (Butterfly.forward.run (128 / ·) lens g)) =
      evalAt x (part len (m / len) g)
  | _, [], _, _, _, _, _ => rfl
  | len, len' :: lens, g, hchain, hroot, hg, hlen => by
    obtain ⟨rfl, htail⟩ := List.isChain_cons_cons.mp hchain
    obtain ⟨⟨hcover, hx⟩, hroot⟩ := List.forall_mem_cons.mp hroot
    have hb : m / len' < 2 * (128 / len') := by
      rw [Nat.div_lt_iff_lt_mul (pos_of_cover hcover)]
      linarith
    have hlayer := evalAt_part_layer hg (hlen.trans hcover.symm) hb hx
    rw [Nat.div_div_eq_div_mul, Nat.mul_comm len' 2] at hlayer
    rw [← hlayer, List.getLastD_cons]
    exact evalAt_part_run hm len' lens htail hroot (canonicalList_layer forward_modular _ _ _ hg)
      (length_layer_of_cover _ hcover _ hlen)

end Evaluation

end Sys2Proof.Proofs

namespace Sys2Proof.Proofs

open Sys2Proof.Machine Sys2Proof.Safety Sys2Proof.Laws

/-! ### The pairs of a ring element in Z_Q[X]/(X^2 - GAM[i]) (41_ntt.md R143, 42_pointwise.md R160) -/

/-- Z_Q[X]/(X^2 - GAM[i]). -/
abbrev PairRing (i : Nat) : Type := QuadraticAlgebra (ZMod 3329) (gamma i : ZMod 3329) 0

/-- Pair `i` of a coefficient list, `g[2i] + g[2i+1]·X`. -/
def pairOf (i : Nat) (g : List Coeff) : PairRing i := ⟨residue (at' g (2 * i)), residue (at' g (2 * i + 1))⟩

/-- The class of X. -/
def root (i : Nat) : PairRing i := QuadraticAlgebra.omega

theorem root_sq (i : Nat) : root i ^ 2 = algebraMap (ZMod 3329) (PairRing i) (gamma i) := by
  rw [pow_two]
  exact QuadraticAlgebra.omega_mul_omega_eq_mk

/-- The powers of GAM[i] by which each layer's twiddles split (41_ntt.md R141, R146); 3328 is -1. -/
theorem gamma_pow_mod : ∀ len ∈ fwdLens, ∀ i < 128,
    gamma i ^ (len / 2) % 3329 = 3328 ^ (2 * i / len) * (zt (128 / len + 2 * i / len / 2)).toNat % 3329 := by
  decide +kernel

theorem gamma_pow_eq {len i : Nat} (hlen : len ∈ fwdLens) (hi : i < 128) :
    (gamma i : ZMod 3329) ^ (len / 2) = (-1) ^ (2 * i / len) * residue (zt (128 / len + 2 * i / len / 2)) := by
  have h := (ZMod.natCast_eq_natCast_iff' _ _ 3329).mpr (gamma_pow_mod len hlen i hi)
  push_cast at h
  exact h

theorem fwdLens_cover : ∀ len ∈ fwdLens, 2 * len * (128 / len) = 256 ∧ 2 * (len / 2) = len := by decide

theorem root_isRootFor {i : Nat} (hi : i < 128) : IsRootFor (2 * i) (root i) fwdLens := by
  intro len hlen
  obtain ⟨hcover, heven⟩ := fwdLens_cover len hlen
  refine ⟨hcover, ?_⟩
  rw [← gamma_pow_eq hlen hi, map_pow, ← root_sq, ← pow_mul, heven]

/-- X^256 = -1 in every one of the rings: X^2 - GAM[i] divides X^256 + 1. -/
theorem root_pow_256 {i : Nat} (hi : i < 128) : root i ^ 256 = -1 := by
  have hmod : ∀ i < 128, gamma i ^ 128 % 3329 = 3328 % 3329 := by decide +kernel
  have hgamma := (ZMod.natCast_eq_natCast_iff' _ _ 3329).mpr (hmod i hi)
  have hneg : ((3328 : ℕ) : ZMod 3329) = -1 := rfl
  rw [Nat.cast_pow, hneg] at hgamma
  rw [show 256 = 2 * 128 from rfl, pow_mul, root_sq, ← map_pow, hgamma, map_neg, map_one]

theorem evalAt_root_part {i : Nat} {g : List Coeff} (hg : 2 * i + 1 < g.length) :
    evalAt (root i) (part 2 i g) = pairOf i g := by
  have hpart : part 2 i g = [at' g (2 * i), at' g (2 * i + 1)] := by
    rw [part, List.drop_eq_getElem_cons (Nat.lt_of_succ_lt hg), List.drop_eq_getElem_cons hg, at', at',
      List.getD_eq_getElem _ _ hg, List.getD_eq_getElem _ _ (Nat.lt_of_succ_lt hg)]
    rfl
  rw [hpart, evalAt, evalAt, evalAt, pairOf, root, QuadraticAlgebra.mk_eq_add_smul_omega, Algebra.smul_def]
  ring

/-- Pair `i` of NTT(f) is f at the root of X^2 - GAM[i] (41_ntt.md R143). -/
theorem pairOf_ntt {f : RingElem} (hf : CanonicalElem f) {i : Nat} (hi : i < 128) :
    pairOf i (ntt f).toList = evalAt (root i) f.toList := by
  rw [canonicalElem_iff_toList] at hf
  have hlen : 2 * i + 1 < (ntt f).toList.length := by rw [Vector.length_toList]; omega
  have hrun := evalAt_part_run (m := 2 * i) (by omega) 256 fwdLens (by decide) (root_isRootFor hi) hf f.length_toList
  rw [← nttList_eq_run, ← toList_ntt] at hrun
  have hlast : 2 * i / fwdLens.getLastD 256 = i := Nat.mul_div_cancel_left i (by decide)
  have hfirst : part 256 (2 * i / 256) f.toList = f.toList := by
    rw [Nat.div_eq_of_lt (by omega)]
    exact List.take_of_length_le (by simp)
  rw [hlast, hfirst] at hrun
  exact (evalAt_root_part hlen).symm.trans hrun

end Sys2Proof.Proofs

namespace Sys2Proof.Proofs

open Sys2Proof.Machine Sys2Proof.Safety Sys2Proof.Laws

/-! ### BaseMul multiplies pair by pair (42_pointwise.md R160, R161) -/

theorem at'_toList (p : RingElem) (j : Fin 256) : at' p.toList j.val = p[j] := by
  rw [at', List.getD_eq_getElem _ _ (by simp), Vector.getElem_toList]
  rfl

theorem residue_at' (p : RingElem) (n : Nat) : residue (at' p.toList n) = (coeffAt p n : ZMod 3329) := rfl

/-- R160: a pair of BaseMul is the product of the two pairs modulo X^2 - GAM[i]. -/
theorem pairOf_baseMul (f g : RingElem) {i : Nat} (hi : i < 128) :
    pairOf i (baseMul f g).toList = pairOf i f.toList * pairOf i g.toList := by
  simp only [QuadraticAlgebra.ext_iff, pairOf, QuadraticAlgebra.mk_mul_mk, residue_at', coeffAt_baseMul_even f g hi,
    coeffAt_baseMul_odd f g hi, ZMod.natCast_mod]
  push_cast
  exact ⟨by ring, by ring⟩

theorem at'_zipWith (f : Coeff → Coeff → Coeff) {g h : List Coeff} {n : Nat} (hg : n < g.length)
    (hh : n < h.length) : at' (List.zipWith f g h) n = f (at' g n) (at' h n) := by
  have hz : n < (List.zipWith f g h).length := by rw [List.length_zipWith]; omega
  rw [at', at', at', List.getD_eq_getElem _ _ hz, List.getD_eq_getElem _ _ hg, List.getD_eq_getElem _ _ hh,
    List.getElem_zipWith]

theorem at'_map (f : Coeff → Coeff) {g : List Coeff} {n : Nat} (hg : n < g.length) :
    at' (g.map f) n = f (at' g n) := by
  have hm : n < (g.map f).length := by rwa [List.length_map]
  rw [at', at', List.getD_eq_getElem _ _ hm, List.getD_eq_getElem _ _ hg, List.getElem_map]

theorem CanonicalList.at'_lt {g : List Coeff} (hg : CanonicalList g) {n : Nat} (hn : n < g.length) :
    (at' g n).toNat < 3329 := by
  rw [at', List.getD_eq_getElem _ _ hn]
  exact hg _ (List.getElem_mem hn)

theorem toList_polyAdd (p q : RingElem) : (polyAdd p q).toList = List.zipWith modAdd p.toList q.toList :=
  toList_ringElemOfList _ (by simp)

/-- R170: coefficient-wise addition modulo Q. -/
theorem coeffAt_polyAdd {p q : RingElem} (hp : CanonicalElem p) (hq : CanonicalElem q) {n : Nat} (hn : n < 256) :
    coeffAt (polyAdd p q) n = (coeffAt p n + coeffAt q n) % 3329 := by
  rw [canonicalElem_iff_toList] at hp hq
  have hpn : n < p.toList.length := by rwa [p.length_toList]
  have hqn : n < q.toList.length := by rwa [q.length_toList]
  have hsum : at' (polyAdd p q).toList n = modAdd (at' p.toList n) (at' q.toList n) := by
    rw [toList_polyAdd, at'_zipWith _ hpn hqn]
  exact (congrArg BitVec.toNat hsum).trans (toNat_modAdd (hp.at'_lt hpn) (hq.at'_lt hqn))

theorem pairOf_polyAdd {f g : RingElem} (hf : CanonicalElem f) (hg : CanonicalElem g) {i : Nat} (hi : i < 128) :
    pairOf i (polyAdd f g).toList = pairOf i f.toList + pairOf i g.toList := by
  have hcoeff (n : Nat) (hn : n < 256) :
      residue (at' (polyAdd f g).toList n) = residue (at' f.toList n) + residue (at' g.toList n) := by
    rw [residue_at', coeffAt_polyAdd hf hg hn, ZMod.natCast_mod, Nat.cast_add]
    rfl
  exact QuadraticAlgebra.ext (hcoeff _ (by omega)) (hcoeff _ (by omega))

theorem toList_scaled (c : Coeff) (f : RingElem) :
    (ringElemOfList (f.toList.map (modMul c))).toList = f.toList.map (modMul c) :=
  toList_ringElemOfList _ (by simp)

theorem pairOf_scaled (c : Coeff) (f : RingElem) {i : Nat} (hi : i < 128) :
    pairOf i (ringElemOfList (f.toList.map (modMul c))).toList = residue c • pairOf i f.toList := by
  have hcoeff (n : Nat) (hn : n < 256) :
      residue (at' (f.toList.map (modMul c)) n) = residue c * residue (at' f.toList n) := by
    rw [at'_map _ (by rwa [f.length_toList]), residue_modMul]
  rw [toList_scaled]
  exact QuadraticAlgebra.ext (hcoeff _ (by omega)) (hcoeff _ (by omega))

/-! #### Canonical ring elements are given by their pairs -/

theorem canonicalElem_of_coeffAt {p : RingElem} (h : ∀ n < 256, coeffAt p n < 3329) : CanonicalElem p := fun j => by
  rw [← at'_toList]
  exact h j j.isLt

theorem eq_of_pairOf_eq {p q : RingElem} (hp : CanonicalElem p) (hq : CanonicalElem q)
    (h : ∀ i < 128, pairOf i p.toList = pairOf i q.toList) : p = q := by
  have hresidue (n : Nat) (hn : n < 256) : residue (at' p.toList n) = residue (at' q.toList n) := by
    obtain ⟨hre, him⟩ := QuadraticAlgebra.ext_iff.mp (h (n / 2) (by omega))
    rcases Nat.even_or_odd' n with ⟨i, rfl | rfl⟩
    · rwa [Nat.mul_div_cancel_left i (by decide)] at hre
    · rwa [show (2 * i + 1) / 2 = i by omega] at him
  rw [canonicalElem_iff_toList] at hp hq
  refine Vector.toList_inj.mp (List.ext_getElem (by simp) fun n hpn hqn => ?_)
  have hn := hresidue n (by rwa [p.length_toList] at hpn)
  rw [at', at', List.getD_eq_getElem _ _ hpn, List.getD_eq_getElem _ _ hqn] at hn
  exact eq_of_residue_eq (hp _ (List.getElem_mem hpn)) (hq _ (List.getElem_mem hqn)) hn

theorem canonicalElem_baseMul (f g : RingElem) : CanonicalElem (baseMul f g) :=
  canonicalElem_of_coeffAt fun n hn => by
    rw [coeffAt_baseMul f g hn, baseMulCoeff]
    split <;> exact Nat.mod_lt _ (by decide)

theorem canonicalElem_polyAdd {f g : RingElem} (hf : CanonicalElem f) (hg : CanonicalElem g) :
    CanonicalElem (polyAdd f g) := by
  rw [canonicalElem_iff_toList] at hf hg ⊢
  rw [toList_polyAdd]
  exact canonicalList_zipWith modAdd_lt hf hg

theorem canonicalElem_scaled (c : Coeff) (f : RingElem) : CanonicalElem (ringElemOfList (f.toList.map (modMul c))) := by
  rw [canonicalElem_iff_toList, toList_scaled]
  exact List.forall_mem_map.mpr fun x _ => modMul_lt c x

/-! #### The laws of BaseMul -/

theorem baseMul_comm (f g : RingElem) : baseMul f g = baseMul g f :=
  eq_of_pairOf_eq (canonicalElem_baseMul f g) (canonicalElem_baseMul g f) fun i hi => by
    rw [pairOf_baseMul f g hi, pairOf_baseMul g f hi, mul_comm]

theorem baseMul_polyAdd_left {f g : RingElem} (hf : CanonicalElem f) (hg : CanonicalElem g) (h : RingElem) :
    baseMul (polyAdd f g) h = polyAdd (baseMul f h) (baseMul g h) := by
  have hfh := canonicalElem_baseMul f h
  have hgh := canonicalElem_baseMul g h
  refine eq_of_pairOf_eq (canonicalElem_baseMul _ h) (canonicalElem_polyAdd hfh hgh) fun i hi => ?_
  rw [pairOf_polyAdd hfh hgh hi, pairOf_baseMul _ h hi, pairOf_baseMul f h hi, pairOf_baseMul g h hi,
    pairOf_polyAdd hf hg hi, add_mul]

theorem baseMul_scaled_left (c : Coeff) (f g : RingElem) :
    baseMul (ringElemOfList (f.toList.map (modMul c))) g = ringElemOfList ((baseMul f g).toList.map (modMul c)) :=
  eq_of_pairOf_eq (canonicalElem_baseMul _ g) (canonicalElem_scaled c _) fun i hi => by
    rw [pairOf_baseMul _ g hi, pairOf_scaled c f hi, pairOf_scaled c _ hi, pairOf_baseMul f g hi, smul_mul_assoc]

/-! ### The negacyclic product (42_pointwise.md R161) -/

/-- The canonical ring element of the negacyclic product. -/
def negacyclic (a b : RingElem) : RingElem := Vector.ofFn fun k => coeffOfNat (negacyclicCoeff a b k).val

theorem toNat_negacyclic (a b : RingElem) (k : Fin 256) :
    ((negacyclic a b)[k]).toNat = (negacyclicCoeff a b k).val := by
  rw [negacyclic, Fin.getElem_fin, Vector.getElem_ofFn, coeffOfNat, BitVec.toNat_ofNat]
  exact Nat.mod_eq_of_lt ((ZMod.val_lt (negacyclicCoeff a b k)).trans (by decide))

theorem canonicalElem_negacyclic (a b : RingElem) : CanonicalElem (negacyclic a b) := fun k =>
  toNat_negacyclic a b k ▸ ZMod.val_lt _

theorem residue_negacyclic (a b : RingElem) (k : Fin 256) : residue (negacyclic a b)[k] = negacyclicCoeff a b k := by
  rw [residue, toNat_negacyclic, ZMod.natCast_val, ZMod.cast_id]

section Evaluation

variable {R : Type*} [CommRing R] [Algebra (ZMod 3329) R]

theorem evalAt_eq_sum (x : R) : ∀ g : List Coeff,
    evalAt x g = ∑ n ∈ Finset.range g.length, algebraMap (ZMod 3329) R (residue (at' g n)) * x ^ n
  | [] => rfl
  | c :: g => by
    rw [evalAt, evalAt_eq_sum x g, List.length_cons, Finset.sum_range_succ', Finset.mul_sum, add_comm]
    refine congrArg₂ (· + ·) (Finset.sum_congr rfl fun n _ => ?_) (by rw [pow_zero, mul_one]; rfl)
    rw [pow_succ']
    exact mul_left_comm x _ _

theorem evalAt_toList (x : R) (p : RingElem) :
    evalAt x p.toList = ∑ j : Fin 256, algebraMap (ZMod 3329) R (residue p[j]) * x ^ j.val := by
  rw [evalAt_eq_sum, p.length_toList, Finset.sum_range]
  simp only [at'_toList]

/-- Where `x ^ 256 = -1`, the term of `a[i]·b[j]` in the negacyclic product has the value of `x ^ (i + j)`. -/
theorem sum_negacyclic_term {x : R} (hx : x ^ 256 = -1) (c : ZMod 3329) (i j : Fin 256) :
    ∑ k : Fin 256, algebraMap (ZMod 3329) R
        (if i.val + j.val = k.val then c else if i.val + j.val = k.val + 256 then -c else 0) * x ^ k.val =
      algebraMap (ZMod 3329) R c * x ^ (i.val + j.val) := by
  by_cases hlt : i.val + j.val < 256
  · rw [Finset.sum_eq_single_of_mem ⟨i.val + j.val, hlt⟩ (Finset.mem_univ _) fun k _ hk => ?_, if_pos rfl]
    have hne : i.val + j.val ≠ k.val := fun h => hk (Fin.ext h.symm)
    rw [if_neg hne, if_neg (by omega), map_zero, zero_mul]
  · obtain ⟨m, hm⟩ := Nat.exists_eq_add_of_le (Nat.le_of_not_lt hlt)
    have hm256 : m < 256 := by omega
    rw [Finset.sum_eq_single_of_mem ⟨m, hm256⟩ (Finset.mem_univ _) fun k _ hk => ?_, if_neg (by simp; omega),
      if_pos (by simp; omega), hm, pow_add, hx, map_neg]
    · ring
    · have hne : m ≠ k.val := fun h => hk (Fin.ext h.symm)
      rw [if_neg (by omega), if_neg (by omega), map_zero, zero_mul]

/-- Where `x ^ 256 = -1`, the negacyclic product has the value of the product. -/
theorem evalAt_negacyclic {x : R} (hx : x ^ 256 = -1) (a b : RingElem) :
    evalAt x (negacyclic a b).toList = evalAt x a.toList * evalAt x b.toList := by
  calc evalAt x (negacyclic a b).toList
      = ∑ k : Fin 256, ∑ i : Fin 256, ∑ j : Fin 256, algebraMap (ZMod 3329) R
          (if i.val + j.val = k.val then residue a[i] * residue b[j]
            else if i.val + j.val = k.val + 256 then -(residue a[i] * residue b[j]) else 0) * x ^ k.val := by
        simp only [evalAt_toList, residue_negacyclic, negacyclicCoeff, map_sum, Finset.sum_mul, Nat.cast_mul]
        rfl
    _ = ∑ i : Fin 256, ∑ j : Fin 256,
          algebraMap (ZMod 3329) R (residue a[i] * residue b[j]) * x ^ (i.val + j.val) := by
        rw [Finset.sum_comm]
        refine Finset.sum_congr rfl fun i _ => ?_
        rw [Finset.sum_comm]
        exact Finset.sum_congr rfl fun j _ => sum_negacyclic_term hx _ i j
    _ = evalAt x a.toList * evalAt x b.toList := by
        rw [evalAt_toList, evalAt_toList, Finset.sum_mul_sum]
        refine Finset.sum_congr rfl fun i _ => Finset.sum_congr rfl fun j _ => ?_
        rw [map_mul, pow_add]
        ring

end Evaluation

/-- BaseMul of two transforms is the transform of the negacyclic product. -/
theorem ntt_negacyclic {a b : RingElem} (ha : CanonicalElem a) (hb : CanonicalElem b) :
    ntt (negacyclic a b) = baseMul (ntt a) (ntt b) := by
  have hc := canonicalElem_negacyclic a b
  refine eq_of_pairOf_eq ((nttMatchesLoop _).2 hc) (canonicalElem_baseMul _ _) fun i hi => ?_
  rw [pairOf_baseMul _ _ hi, pairOf_ntt hc hi, pairOf_ntt ha hi, pairOf_ntt hb hi,
    evalAt_negacyclic (root_pow_256 hi)]

/-- R161: the inverse transform of the product of the transforms is the negacyclic product. -/
theorem intt_baseMul_ntt {a b : RingElem} (ha : CanonicalElem a) (hb : CanonicalElem b) :
    intt (baseMul (ntt a) (ntt b)) = negacyclic a b := by
  rw [← ntt_negacyclic ha hb, (inverseLaw _ (canonicalElem_negacyclic a b)).1]

/-- Settles O15: by evaluation at the roots of the 128 moduli, and by the ring laws of the pairs. -/
theorem negacyclicProduct : Obligations.NegacyclicProduct := by
  refine ⟨fun a b ha hb k => ?_, fun f g h hf hg _ => ⟨baseMul_comm f g, baseMul_polyAdd_left hf hg h, ?_,
    fun c _ => baseMul_scaled_left c f g⟩⟩
  · rw [intt_baseMul_ntt ha hb, ← residue_negacyclic, ← at'_toList]
    rfl
  · rw [baseMul_comm h, baseMul_polyAdd_left hf hg, baseMul_comm f, baseMul_comm g]

end Sys2Proof.Proofs

namespace Sys2Proof.Proofs

open Sys2Proof.Machine Sys2Proof.Safety Sys2Proof.Laws

/-! ### Words of format F3 (30_encoding.md R93) -/

/-- The bits of the mask of F3 are the three above each operand field. -/
theorem zmask_f3_bits : ∀ i < 32, Format.f3.zmask.getLsbD i = true →
    13 ≤ i ∧ i < 16 ∨ 21 ≤ i ∧ i < 24 ∨ 29 ≤ i ∧ i < 32 := by
  decide

/-- A packed word has no bit under the mask of F3. -/
theorem packWord_and_zmask_f3 (d a b : Slot) {opc : Nat} (ho : opc < 256) :
    packWord b a d opc &&& Format.f3.zmask = 0 := by
  refine and_eq_zero_of_getLsbD fun i hi hm => getLsbD_eq_of_div_mod ?_
  rw [toNat_packWord b a d opc b.isLt a.isLt d.isLt ho, Bool.toNat_false]
  rcases zmask_f3_bits i hi hm with ⟨hlo, hhi⟩ | ⟨hlo, hhi⟩ | ⟨hlo, hhi⟩ <;> interval_cases i <;> omega

theorem opcodeRow_packWord_f3 (d a b : Slot) {opc : Nat} {c : Fields → Instr} (ho : opc < 256)
    (hrow : opcodeRow opc = some (.f3, c)) : opcodeRow (opcodeOf (packWord b a d opc)) = some (.f3, c) := by
  rwa [opcodeOf_packWord b a d opc b.isLt a.isLt d.isLt ho]

/-- A packed word of format F3 decodes to the command of its opcode's row, with its three operands. -/
theorem decode_packWord_f3 (d a b : Slot) {opc : Nat} {c : Fields → Instr} (ho : opc < 256)
    (hrow : opcodeRow opc = some (.f3, c)) :
    ∃ fields : Fields, fields.rd = d ∧ fields.ra = a ∧ fields.rb = b ∧
      decode (packWord b a d opc) = .command (c fields) := by
  refine ⟨fieldsOf (packWord b a d opc), Fin.ext (rd_packWord b a d opc b.isLt a.isLt d.isLt ho),
    Fin.ext (ra_packWord b a d opc b.isLt a.isLt d.isLt ho),
    Fin.ext (rb_packWord b a d opc b.isLt a.isLt d.isLt ho), ?_⟩
  rw [decode_of_row (opcodeRow_packWord_f3 d a b ho hrow), packWord_and_zmask_f3 d a b ho, if_neg (not_not.mpr rfl)]

/-- A command of format F3 is issued like every command, under the mask of F3. -/
theorem issuedLikeEveryCommand_f3 {i : Instr} (d a b : Slot) {opc : Nat} {c : Fields → Instr} (ho : opc < 256)
    (hrow : opcodeRow opc = some (.f3, c)) (henc : encode i = packWord b a d opc)
    (hdec : decode (encode i) = .command i) :
    IssuedLikeEveryCommand i (packWord b a d opc) Format.f3.zmask :=
  issuedLikeEveryCommand henc (opcodeRow_packWord_f3 d a b ho hrow) (henc ▸ hdec)

/-! ### PMUL and PMAC (42_pointwise.md R163, R164) -/

theorem decode_encode_pmul (d a b : Slot) : decode (encode (.pmul d a b)) = .command (.pmul d a b) := by
  obtain ⟨_, rfl, rfl, rfl, hdec⟩ := decode_packWord_f3 d a b (opc := 0x05) (by decide) rfl
  exact hdec

theorem decode_encode_pmac (d a b : Slot) : decode (encode (.pmac d a b)) = .command (.pmac d a b) := by
  obtain ⟨_, rfl, rfl, rfl, hdec⟩ := decode_packWord_f3 d a b (opc := 0x06) (by decide) rfl
  exact hdec

theorem domainOk_pmul_iff (s : State) (d a b : Slot) :
    domainOk s (.pmul d a b) = true ↔ s.tag a = .ntt ∧ s.tag b = .ntt := by
  simp [domainOk]

theorem domainOk_pmac_iff (s : State) (d a b : Slot) :
    domainOk s (.pmac d a b) = true ↔ s.tag a = .ntt ∧ s.tag b = .ntt ∧ s.tag d = .ntt := by
  simp [domainOk, and_assoc]

theorem exec_pmul {s : State} {d a b : Slot} (h : domainOk s (.pmul d a b) = true) :
    exec (.pmul d a b) s = .next (s.writeSlot d (baseMul (s.slot a) (s.slot b)) .ntt) :=
  runChecked_ok (.pmul d a b) s (fun s => s.writeSlot d (baseMul (s.slot a) (s.slot b)) .ntt) rfl h

theorem exec_pmac {s : State} {d a b : Slot} (h : domainOk s (.pmac d a b) = true) :
    exec (.pmac d a b) s =
      .next (s.writeSlot d (polyAdd (s.slot d) (baseMul (s.slot a) (s.slot b))) .ntt) :=
  runChecked_ok (.pmac d a b) s
    (fun s => s.writeSlot d (polyAdd (s.slot d) (baseMul (s.slot a) (s.slot b))) .ntt) rfl h

/-- Settles O23: by the domain check; the result is BaseMul, by its formulas. -/
theorem pmulRule : Obligations.PmulRule := by
  intro d a b
  have hdec := decode_encode_pmul d a b
  refine ⟨issuedLikeEveryCommand_f3 d a b (by decide) rfl rfl hdec, fun s => ⟨fun h => ?_, fun ha hb => ?_⟩⟩
  · exact raises_domain hdec rfl (Bool.eq_false_iff.mpr (mt (domainOk_pmul_iff s d a b).mp h))
  · have hd := (domainOk_pmul_iff s d a b).mpr ⟨ha, hb⟩
    refine ⟨accepted_of_checked hdec rfl hd, _, exec_pmul hd, framedBy_writeSlot s d _ _,
      tag_writeSlot_self s d _ _, fun _ j hj => ?_⟩
    rw [slot_writeSlot_self, coeffAt_baseMul _ _ hj]

/-- Settles O24: by the domain check; the result is the sum of the old accumulator and BaseMul, by its formulas. -/
theorem pmacRule : Obligations.PmacRule := by
  intro d a b
  have hdec := decode_encode_pmac d a b
  refine ⟨issuedLikeEveryCommand_f3 d a b (by decide) rfl rfl hdec, fun s => ⟨fun h => ?_, fun ha hb hd => ?_⟩⟩
  · exact raises_domain hdec rfl (Bool.eq_false_iff.mpr (mt (domainOk_pmac_iff s d a b).mp h))
  · have hd := (domainOk_pmac_iff s d a b).mpr ⟨ha, hb, hd⟩
    refine ⟨accepted_of_checked hdec rfl hd, _, exec_pmac hd, framedBy_writeSlot s d _ _,
      tag_writeSlot_self s d _ _, fun hs j hj => ?_⟩
    rw [slot_writeSlot_self, coeffAt_polyAdd (hs d) (canonicalElem_baseMul _ _) hj, coeffAt_baseMul _ _ hj]

end Sys2Proof.Proofs

namespace Sys2Proof.Proofs

open Sys2Proof.Machine Sys2Proof.Safety Sys2Proof.Laws

/-! ### PADD and PSUB (43_poly_addsub.md R170, R171) -/

theorem coeffAt_eq_toNat_getElem (p : RingElem) {n : Nat} (hn : n < 256) : coeffAt p n = p[n].toNat :=
  congrArg BitVec.toNat (at'_toList p ⟨n, hn⟩)

/-- R171: coefficient-wise subtraction; the result is the least non-negative residue of the integer difference. -/
theorem coeffAt_polySub {p q : RingElem} (hp : CanonicalElem p) (hq : CanonicalElem q) {n : Nat} (hn : n < 256) :
    (coeffAt (polySub p q) n : ℤ) = ((coeffAt p n : ℤ) - coeffAt q n) % 3329 := by
  have hpn : p[n].toNat < 3329 := hp ⟨n, hn⟩
  have hqn : q[n].toNat < 3329 := hq ⟨n, hn⟩
  simp only [coeffAt_eq_toNat_getElem _ hn, polySub_getElem p q n hn, toNat_modSub hpn hqn]
  omega

theorem decode_encode_padd (d a b : Slot) : decode (encode (.padd d a b)) = .command (.padd d a b) := by
  obtain ⟨_, rfl, rfl, rfl, hdec⟩ := decode_packWord_f3 d a b (opc := 0x01) (by decide) rfl
  exact hdec

theorem decode_encode_psub (d a b : Slot) : decode (encode (.psub d a b)) = .command (.psub d a b) := by
  obtain ⟨_, rfl, rfl, rfl, hdec⟩ := decode_packWord_f3 d a b (opc := 0x02) (by decide) rfl
  exact hdec

/-- A command without a vector base that requires one common tag of its sources and writes `op` of them, under that
tag, to its destination. -/
theorem commonTag_command {i : Instr} {d a b : Slot} {op : RingElem → RingElem → RingElem}
    (hdec : decode (encode i) = .command i) (hrange : ∀ k, rangeOk k i = true)
    (hdomain : ∀ s, domainOk s i = decide (s.tag a = s.tag b))
    (hexec : ∀ s, exec i s = runChecked i s fun s => s.writeSlot d (op (s.slot a) (s.slot b)) (s.tag a)) (s : State) :
    (s.tag a ≠ s.tag b → Raises .domain i s) ∧
    (s.tag a = s.tag b → Accepted i s ∧ ∃ t, exec i s = .next t ∧ FramedBy [d] s t ∧ t.tag d = s.tag a ∧
      t.slot d = op (s.slot a) (s.slot b)) := by
  refine ⟨fun hne => ?_, fun heq => ?_⟩
  · exact raises_domain hdec (hrange _) ((hdomain s).trans (decide_eq_false hne))
  · have hd : domainOk s i = true := (hdomain s).trans (decide_eq_true heq)
    exact ⟨accepted_of_checked hdec (hrange _) hd, _, (hexec s).trans (runChecked_ok i s _ (hrange _) hd),
      framedBy_writeSlot s d _ _, tag_writeSlot_self s d _ _, slot_writeSlot_self s d _ _⟩

/-- Settles O19: by the domain check; the result is the sum of the two sources, coefficient by coefficient. -/
theorem paddRule : Obligations.PaddRule := by
  intro d a b
  have hdec := decode_encode_padd d a b
  refine ⟨issuedLikeEveryCommand_f3 d a b (by decide) rfl rfl hdec, fun s => ?_⟩
  obtain ⟨hraises, hruns⟩ := commonTag_command (op := polyAdd) hdec (fun _ => rfl) (fun _ => rfl) (fun _ => rfl) s
  refine ⟨hraises, fun heq => ?_⟩
  obtain ⟨haccepted, t, hnext, hframe, htag, hslot⟩ := hruns heq
  exact ⟨haccepted, t, hnext, hframe, htag, fun hs j hj => by rw [hslot, coeffAt_polyAdd (hs a) (hs b) hj]⟩

/-- Settles O20: by the domain check; the result is the difference of the two sources, coefficient by coefficient. -/
theorem psubRule : Obligations.PsubRule := by
  intro d a b
  have hdec := decode_encode_psub d a b
  refine ⟨issuedLikeEveryCommand_f3 d a b (by decide) rfl rfl hdec, fun s => ?_⟩
  obtain ⟨hraises, hruns⟩ := commonTag_command (op := polySub) hdec (fun _ => rfl) (fun _ => rfl) (fun _ => rfl) s
  refine ⟨hraises, fun heq => ?_⟩
  obtain ⟨haccepted, t, hnext, hframe, htag, hslot⟩ := hruns heq
  exact ⟨haccepted, t, hnext, hframe, htag, fun hs j hj => by rw [hslot, coeffAt_polySub (hs a) (hs b) hj]⟩

end Sys2Proof.Proofs

namespace Sys2Proof.Proofs

open Sys2Proof.Machine Sys2Proof.Safety Sys2Proof.Laws

/-! ### What holds of every command with vector bases (44_vector.md R180; 60_exceptions.md R226) -/

/-- The range check of two vector bases. -/
theorem baseOk_and_iff (s : State) (a b : Slot) :
    (baseOk s.k a && baseOk s.k b) = true ↔ BaseLegal s a ∧ BaseLegal s b := by
  rw [Bool.and_eq_true, baseOk_iff, baseOk_iff]

/-- The range check of three vector bases. -/
theorem baseOk_and_and_iff (s : State) (d a b : Slot) :
    (baseOk s.k d && baseOk s.k a && baseOk s.k b) = true ↔ BaseLegal s d ∧ BaseLegal s a ∧ BaseLegal s b := by
  rw [Bool.and_eq_true, baseOk_and_iff, baseOk_iff, and_assoc]

/-- The domain check of two vectors that must both have tag `t`. -/
theorem allTagged_and_iff (s : State) (a b : Slot) (t : Domain) :
    (s.allTagged a t && s.allTagged b t) = true ↔ ∀ i < s.k, s.tag (vecElem a i) = t ∧ s.tag (vecElem b i) = t := by
  rw [Bool.and_eq_true, allTagged_iff, allTagged_iff]
  exact forall₂_and.symm

theorem vecElem_ne_of_notMem {s : State} {d a : Slot} (h : d ∉ vecSlots s a) {i : Nat} (hi : i < s.k) :
    vecElem a i ≠ d := fun he => h (List.mem_map.mpr ⟨i, List.mem_range.mpr hi, he⟩)

/-- With the gate open, a CMD write of a command that fails its range check is the record alone. -/
theorem onCmdWrite_of_slotRange {s : State} {w : Word} {i : Instr} (he : s.err = false) (hb : s.busy = false)
    (hw : decode w = .command i) (hr : rangeOk s.k i = false) : s.onCmdWrite w = s.record .slotRange w := by
  simp [State.onCmdWrite, State.cmdError, he, hb, hw, hr]

/-- A command whose range check fails raises SLOT_RANGE, at the CMD write and in its rule. -/
theorem raises_slotRange {i : Instr} {s : State} (hdec : decode (encode i) = .command i)
    (hr : rangeOk s.k i = false) : Raises .slotRange i s := by
  obtain ⟨f, hf⟩ := exec_is_runChecked i s
  have hexec : exec i s = .next (s.record .slotRange (encode i)) := by
    rw [hf]
    simp [runChecked, State.cmdError, hr]
  exact ⟨⟨_, hexec, raisedFrom_record _ _ s⟩,
    fun he hb => onCmdWrite_of_slotRange he hb hdec hr ▸ raisedFrom_record _ _ s⟩

/-- A command that requires `legal` and then `ok` of each element: SLOT_RANGE comes before DOMAIN, and with both it is
accepted and has its effect. -/
theorem checked_command {i : Instr} {s : State} {legal : Prop} {ok : Nat → Prop} {effect : State → State}
    (hdec : decode (encode i) = .command i) (hrange : rangeOk s.k i = true ↔ legal)
    (hdomain : domainOk s i = true ↔ ∀ j < s.k, ok j) (hexec : exec i s = runChecked i s effect) :
    (¬legal → Raises .slotRange i s) ∧
    (legal → ((∃ j < s.k, ¬ok j) → Raises .domain i s) ∧
      ((∀ j < s.k, ok j) → Accepted i s ∧ exec i s = .next (effect s))) := by
  refine ⟨fun hl => ?_, fun hl => ⟨fun ⟨j, hj, hbad⟩ => ?_, fun hok => ?_⟩⟩
  · exact raises_slotRange hdec (Bool.eq_false_iff.mpr (mt hrange.mp hl))
  · exact raises_domain hdec (hrange.mpr hl) (Bool.eq_false_iff.mpr fun hd => hbad (hdomain.mp hd j hj))
  · have hr := hrange.mpr hl
    have hd := hdomain.mpr hok
    exact ⟨accepted_of_checked hdec hr hd, hexec.trans (runChecked_ok i s effect hr hd)⟩

/-- The frame of a command that writes a vector. -/
theorem framedBy_writeVector (s : State) (d : Slot) (value : Nat → RingElem) (tag : Nat → Domain) :
    FramedBy (vecSlots s d) s (s.writeVector d s.k value tag) :=
  ⟨writeVector_only s d s.k value tag, fun e he => writeVector_outside s d e s.k value tag fun _ hi =>
    (vecElem_ne_of_notMem he hi).symm⟩

/-- A checked command that writes the vector with base `d`, element `j` with `value` and `tag` of the old state, where
`claim` holds of the values. -/
theorem vector_command {i : Instr} {s : State} {d : Slot} {legal : Prop} {ok : Nat → Prop}
    {claim : Nat → RingElem → Prop} {value : State → Nat → RingElem} {tag : State → Nat → Domain}
    (hdec : decode (encode i) = .command i) (hrange : rangeOk s.k i = true ↔ BaseLegal s d ∧ legal)
    (hdomain : domainOk s i = true ↔ ∀ j < s.k, ok j)
    (hexec : exec i s = runChecked i s fun s => s.writeVector d s.k (value s) (tag s))
    (hclaim : ∀ j, claim j (value s j)) :
    (¬(BaseLegal s d ∧ legal) → Raises .slotRange i s) ∧
    (BaseLegal s d → legal → ((∃ j < s.k, ¬ok j) → Raises .domain i s) ∧
      ((∀ j < s.k, ok j) → Accepted i s ∧ ∃ t, exec i s = .next t ∧ FramedBy (vecSlots s d) s t ∧
        ∀ j < s.k, t.tag (vecElem d j) = tag s j ∧ claim j (t.slot (vecElem d j)))) := by
  obtain ⟨hillegal, hlegal⟩ := checked_command hdec hrange hdomain hexec
  refine ⟨hillegal, fun hd hl => ?_⟩
  obtain ⟨hraises, hruns⟩ := hlegal ⟨hd, hl⟩
  refine ⟨hraises, fun hok => ?_⟩
  obtain ⟨haccepted, hnext⟩ := hruns hok
  refine ⟨haccepted, _, hnext, framedBy_writeVector s d (value s) (tag s), fun j hj => ?_⟩
  have hend : d.val + s.k ≤ 32 := of_decide_eq_true ((baseOk_iff s d).mpr hd)
  obtain ⟨hslot, htag⟩ := writeVector_elem s d s.k (value s) (tag s) hend j hj
  exact ⟨htag, hslot ▸ hclaim j⟩

/-! #### The words of the vector commands -/

theorem decode_encode_vadd (d a b : Slot) : decode (encode (.vadd d a b)) = .command (.vadd d a b) := by
  obtain ⟨_, rfl, rfl, rfl, hdec⟩ := decode_packWord_f3 d a b (opc := 0x11) (by decide) rfl
  exact hdec

theorem decode_encode_vsub (d a b : Slot) : decode (encode (.vsub d a b)) = .command (.vsub d a b) := by
  obtain ⟨_, rfl, rfl, rfl, hdec⟩ := decode_packWord_f3 d a b (opc := 0x12) (by decide) rfl
  exact hdec

theorem decode_encode_vntt (d a : Slot) : decode (encode (.vntt d a)) = .command (.vntt d a) := by
  obtain ⟨_, rfl, rfl, hdec⟩ := decode_packWord_f2 d a (opc := 0x13) (by decide) rfl
  exact hdec

theorem decode_encode_vintt (d a : Slot) : decode (encode (.vintt d a)) = .command (.vintt d a) := by
  obtain ⟨_, rfl, rfl, hdec⟩ := decode_packWord_f2 d a (opc := 0x14) (by decide) rfl
  exact hdec

theorem decode_encode_vpmul (d a b : Slot) : decode (encode (.vpmul d a b)) = .command (.vpmul d a b) := by
  obtain ⟨_, rfl, rfl, rfl, hdec⟩ := decode_packWord_f3 d a b (opc := 0x15) (by decide) rfl
  exact hdec

theorem decode_encode_vdot (d a b : Slot) : decode (encode (.vdot d a b)) = .command (.vdot d a b) := by
  obtain ⟨_, rfl, rfl, rfl, hdec⟩ := decode_packWord_f3 d a b (opc := 0x16) (by decide) rfl
  exact hdec

/-! ### The vector transforms (44_vector.md R183, R184) -/

/-- Settles O31: by its two checks; each element is the transform of the old element. -/
theorem vnttRule : Obligations.VnttRule := by
  intro d a
  have hdec := decode_encode_vntt d a
  refine ⟨issuedLikeEveryCommand_f2 d a (by decide) rfl rfl hdec, fun s => ?_⟩
  exact vector_command (claim := fun i p => p = ntt (s.slot (vecElem a i))) (value := fun s i => ntt (s.vec a i))
    (tag := fun _ _ => .ntt) hdec (baseOk_and_iff s d a) (allTagged_iff s a .normal) rfl fun _ => rfl

/-- Settles O32: by its two checks; each element is the inverse transform of the old element. -/
theorem vinttRule : Obligations.VinttRule := by
  intro d a
  have hdec := decode_encode_vintt d a
  refine ⟨issuedLikeEveryCommand_f2 d a (by decide) rfl rfl hdec, fun s => ?_⟩
  exact vector_command (claim := fun i p => p = intt (s.slot (vecElem a i))) (value := fun s i => intt (s.vec a i))
    (tag := fun _ _ => .normal) hdec (baseOk_and_iff s d a) (allTagged_iff s a .ntt) rfl fun _ => rfl

/-! ### The element-wise operations on two vectors (44_vector.md R181, R182, R185) -/

/-- Settles O29: by its two checks; each element is the sum of the two old elements, coefficient by coefficient. -/
theorem vaddRule : Obligations.VaddRule := by
  intro d a b
  have hdec := decode_encode_vadd d a b
  refine ⟨issuedLikeEveryCommand_f3 d a b (by decide) rfl rfl hdec, fun s => ?_⟩
  obtain ⟨hillegal, hlegal⟩ := vector_command
    (claim := fun i p => Canonical s → ∀ j < 256,
      coeffAt p j = (coeffAt (s.slot (vecElem a i)) j + coeffAt (s.slot (vecElem b i)) j) % 3329)
    (value := fun s i => polyAdd (s.vec a i) (s.vec b i)) (tag := fun s i => s.tag (vecElem a i))
    hdec (baseOk_and_and_iff s d a b) (sameTags_iff s a b) rfl fun _ hs _ hj => coeffAt_polyAdd (hs _) (hs _) hj
  exact ⟨hillegal, fun hd ha hb => hlegal hd ⟨ha, hb⟩⟩

/-- Settles O30: by its two checks; each element is the difference of the two old elements, coefficient by
coefficient. -/
theorem vsubRule : Obligations.VsubRule := by
  intro d a b
  have hdec := decode_encode_vsub d a b
  refine ⟨issuedLikeEveryCommand_f3 d a b (by decide) rfl rfl hdec, fun s => ?_⟩
  obtain ⟨hillegal, hlegal⟩ := vector_command
    (claim := fun i p => Canonical s → ∀ j < 256,
      (coeffAt p j : ℤ) = ((coeffAt (s.slot (vecElem a i)) j : ℤ) - coeffAt (s.slot (vecElem b i)) j) % 3329)
    (value := fun s i => polySub (s.vec a i) (s.vec b i)) (tag := fun s i => s.tag (vecElem a i))
    hdec (baseOk_and_and_iff s d a b) (sameTags_iff s a b) rfl fun _ hs _ hj => coeffAt_polySub (hs _) (hs _) hj
  exact ⟨hillegal, fun hd ha hb => hlegal hd ⟨ha, hb⟩⟩

/-- Settles O33: by its two checks; each element is BaseMul of the two old elements, by its formulas. -/
theorem vpmulRule : Obligations.VpmulRule := by
  intro d a b
  have hdec := decode_encode_vpmul d a b
  refine ⟨issuedLikeEveryCommand_f3 d a b (by decide) rfl rfl hdec, fun s => ?_⟩
  obtain ⟨hillegal, hlegal⟩ := vector_command
    (claim := fun i p => Canonical s → ∀ j < 256,
      coeffAt p j = baseMulCoeff (s.slot (vecElem a i)) (s.slot (vecElem b i)) j)
    (value := fun s i => baseMul (s.vec a i) (s.vec b i)) (tag := fun _ _ => .ntt)
    hdec (baseOk_and_and_iff s d a b) (allTagged_and_iff s a b .ntt) rfl fun _ _ _ hj => coeffAt_baseMul _ _ hj
  exact ⟨hillegal, fun hd ha hb => hlegal hd ⟨ha, hb⟩⟩

/-! ### The inner product and the PMAC chain (44_vector.md R186; 42_pointwise.md R164) -/

theorem dotSum_succ (s : State) (a b : Slot) (n : Nat) :
    s.dotSum a b (n + 1) =
      polyAdd (s.dotSum a b n) (baseMul (s.slot (vecElem a n)) (s.slot (vecElem b n))) := by
  rw [State.dotSum, List.range_succ, List.foldl_append]
  rfl

/-- A second write of a slot hides the first. -/
theorem writeSlot_writeSlot (s : State) (d : Slot) (p p' : RingElem) (t t' : Domain) :
    (s.writeSlot d p t).writeSlot d p' t' = s.writeSlot d p' t' := by
  simp [State.writeSlot, State.setSlot, State.setTag]

theorem exec_vdot {s : State} (d : Slot) {a b : Slot} (ha : BaseLegal s a) (hb : BaseLegal s b)
    (h : ∀ i < s.k, s.tag (vecElem a i) = .ntt ∧ s.tag (vecElem b i) = .ntt) :
    exec (.vdot d a b) s = .next (s.writeSlot d (s.dotSum a b s.k) .ntt) :=
  runChecked_ok (.vdot d a b) s (fun s => s.writeSlot d (s.dotSum a b s.k) .ntt)
    ((baseOk_and_iff s a b).mpr ⟨ha, hb⟩) ((allTagged_and_iff s a b .ntt).mpr h)

/-- A PMAC of two NTT slots other than its NTT accumulator `p` adds their product to `p`. -/
theorem exec_pmac_writeSlot {s : State} {d a b : Slot} (hda : a ≠ d) (hdb : b ≠ d) (ha : s.tag a = .ntt)
    (hb : s.tag b = .ntt) (p : RingElem) :
    exec (.pmac d a b) (s.writeSlot d p .ntt) =
      .next (s.writeSlot d (polyAdd p (baseMul (s.slot a) (s.slot b))) .ntt) := by
  have hdomain : domainOk (s.writeSlot d p .ntt) (.pmac d a b) = true := by
    rw [domainOk_pmac_iff, tag_writeSlot_ne _ _ _ _ _ hda, tag_writeSlot_ne _ _ _ _ _ hdb]
    exact ⟨ha, hb, tag_writeSlot_self s d p .ntt⟩
  rw [exec_pmac hdomain, writeSlot_writeSlot, slot_writeSlot_self, slot_writeSlot_ne _ _ _ _ _ hda,
    slot_writeSlot_ne _ _ _ _ _ hdb]

/-- Settles O35: after the `i`-th PMAC the accumulator holds the inner product of the first `i` elements, and all else
is as at the start. -/
theorem macChainEqualsDot : Obligations.MacChainEqualsDot := by
  intro d a b s ha hb htags hda hdb
  refine ⟨fun i => s.writeSlot d (s.dotSum a b i) .ntt, ?_, fun i hi => ?_, exec_vdot d ha hb htags⟩
  · exact runChecked_ok (.pzero d .ntt) s (fun s => s.writeSlot d ringZero .ntt) rfl rfl
  · obtain ⟨hai, hbi⟩ := htags i hi
    simp only [dotSum_succ]
    exact exec_pmac_writeSlot (vecElem_ne_of_notMem hda hi) (vecElem_ne_of_notMem hdb hi) hai hbi _

/-! ### The inner product by its formula (44_vector.md R186) -/

theorem coeffAt_ringZero {j : Nat} (hj : j < 256) : coeffAt ringZero j = 0 := by
  rw [coeffAt_eq_toNat_getElem ringZero hj, ringZero_getElem j hj]
  rfl

/-- The inner product is canonical, whatever the cells of its vectors hold. -/
theorem canonicalElem_dotSum (s : State) (a b : Slot) (n : Nat) : CanonicalElem (s.dotSum a b n) := by
  induction n with
  | zero => exact canonicalElem_of_coeffAt fun j hj => (coeffAt_ringZero hj).trans_lt (by decide)
  | succ n ih =>
    rw [dotSum_succ]
    exact canonicalElem_polyAdd ih (canonicalElem_baseMul _ _)

/-- R186: each coefficient is reduced once per element, which is the reduction of the whole sum (R129). -/
theorem coeffAt_dotSum (s : State) (a b : Slot) (n : Nat) {j : Nat} (hj : j < 256) :
    coeffAt (s.dotSum a b n) j =
      (∑ i ∈ Finset.range n, baseMulCoeff (s.slot (vecElem a i)) (s.slot (vecElem b i)) j) % 3329 := by
  induction n with
  | zero => exact coeffAt_ringZero hj
  | succ n ih =>
    rw [dotSum_succ, coeffAt_polyAdd (canonicalElem_dotSum s a b n) (canonicalElem_baseMul _ _) hj,
      coeffAt_baseMul _ _ hj, ih, Finset.sum_range_succ, Nat.mod_add_mod]

/-- Settles O34: by its two checks, neither of which reads the destination; the result is the sum of the products. -/
theorem vdotRule : Obligations.VdotRule := by
  intro d a b
  have hdec := decode_encode_vdot d a b
  refine ⟨issuedLikeEveryCommand_f3 d a b (by decide) rfl rfl hdec, fun s => ?_⟩
  obtain ⟨hillegal, hlegal⟩ := checked_command (effect := fun s => s.writeSlot d (s.dotSum a b s.k) .ntt)
    hdec (baseOk_and_iff s a b) (allTagged_and_iff s a b .ntt) rfl
  refine ⟨hillegal, fun ha hb => ?_⟩
  obtain ⟨hraises, hruns⟩ := hlegal ⟨ha, hb⟩
  refine ⟨hraises, fun htags => ?_⟩
  obtain ⟨haccepted, hnext⟩ := hruns htags
  refine ⟨haccepted, _, hnext, framedBy_writeSlot s d _ _, tag_writeSlot_self s d _ _, fun _ j hj => ?_⟩
  rw [slot_writeSlot_self, coeffAt_dotSum s a b s.k hj]

end Sys2Proof.Proofs

namespace Sys2Proof.Proofs

open Sys2Proof.Machine Sys2Proof.Safety Sys2Proof.Laws

/-! ### Words of format F1T (30_encoding.md R93, R94) -/

/-- The bits of the mask of F1T are the three above the destination and all above the tag bit. -/
theorem zmask_f1t_bits : ∀ i < 32, Format.f1t.zmask.getLsbD i = true → 13 ≤ i ∧ i < 16 ∨ 17 ≤ i := by
  decide

theorem toNat_domain_lt_two (t : Domain) : t.toNat < 2 := by
  cases t <;> decide

/-- A packed word whose middle operand is a tag has no bit under the mask of F1T. -/
theorem packWord_and_zmask_f1t (d : Slot) (t : Domain) {opc : Nat} (ho : opc < 256) :
    packWord 0 t.toNat d opc &&& Format.f1t.zmask = 0 := by
  have ht := toNat_domain_lt_two t
  refine and_eq_zero_of_getLsbD fun i hi hm => getLsbD_eq_of_div_mod ?_
  rw [toNat_packWord 0 t.toNat d opc (by decide) (by omega) d.isLt ho, Bool.toNat_false]
  rcases zmask_f1t_bits i hi hm with ⟨hlo, hhi⟩ | hhigh
  · interval_cases i <;> omega
  · have hpow : 2 ^ 17 ≤ 2 ^ i := Nat.pow_le_pow_right (by decide) hhigh
    rw [Nat.div_eq_of_lt (by omega)]

theorem domainOfBit_ofNat_toNat (t : Domain) : domainOfBit (BitVec.ofNat 1 t.toNat) = t := by
  cases t <;> rfl

/-- The tag bit of a packed word whose middle operand is a tag. -/
theorem tag_packWord (d : Slot) (t : Domain) {opc : Nat} (ho : opc < 256) :
    (fieldsOf (packWord 0 t.toNat d opc)).t = t := by
  have ht := toNat_domain_lt_two t
  have hbit : (packWord 0 t.toNat d opc).extractLsb' 16 1 = BitVec.ofNat 1 t.toNat := by
    apply BitVec.eq_of_toNat_eq
    rw [BitVec.extractLsb'_toNat, toNat_packWord 0 t.toNat d opc (by decide) (by omega) d.isLt ho,
      Nat.shiftRight_eq_div_pow, BitVec.toNat_ofNat]
    omega
  exact (congrArg domainOfBit hbit).trans (domainOfBit_ofNat_toNat t)

theorem opcodeRow_packWord_f1t (d : Slot) (t : Domain) {opc : Nat} {c : Fields → Instr} (ho : opc < 256)
    (hrow : opcodeRow opc = some (.f1t, c)) : opcodeRow (opcodeOf (packWord 0 t.toNat d opc)) = some (.f1t, c) := by
  rwa [opcodeOf_packWord 0 t.toNat d opc (by decide) ((toNat_domain_lt_two t).trans (by decide)) d.isLt ho]

/-- A packed word of format F1T decodes to the command of its opcode's row, with its slot and its tag. -/
theorem decode_packWord_f1t (d : Slot) (t : Domain) {opc : Nat} {c : Fields → Instr} (ho : opc < 256)
    (hrow : opcodeRow opc = some (.f1t, c)) :
    ∃ fields : Fields, fields.rd = d ∧ fields.t = t ∧ decode (packWord 0 t.toNat d opc) = .command (c fields) := by
  refine ⟨fieldsOf (packWord 0 t.toNat d opc), Fin.ext (rd_packWord 0 t.toNat d opc (by decide)
    ((toNat_domain_lt_two t).trans (by decide)) d.isLt ho), tag_packWord d t ho, ?_⟩
  rw [decode_of_row (opcodeRow_packWord_f1t d t ho hrow), packWord_and_zmask_f1t d t ho, if_neg (not_not.mpr rfl)]

/-- A command of format F1T is issued like every command, under the mask of F1T. -/
theorem issuedLikeEveryCommand_f1t {i : Instr} (d : Slot) (t : Domain) {opc : Nat} {c : Fields → Instr}
    (ho : opc < 256) (hrow : opcodeRow opc = some (.f1t, c)) (henc : encode i = packWord 0 t.toNat d opc)
    (hdec : decode (encode i) = .command i) :
    IssuedLikeEveryCommand i (BitVec.ofNat 32 (t.toNat * 2 ^ 16 + d.val * 2 ^ 8 + opc)) Format.f1t.zmask := by
  have hword : packWord 0 t.toNat d opc = BitVec.ofNat 32 (t.toNat * 2 ^ 16 + d.val * 2 ^ 8 + opc) := by
    rw [packWord, zero_mul, zero_add]
  rw [← hword]
  exact issuedLikeEveryCommand henc (opcodeRow_packWord_f1t d t ho hrow) (henc ▸ hdec)

/-! ### The housekeeping commands (45_housekeeping.md R200 to R204) -/

theorem decode_encode_nop : decode (encode .nop) = .command .nop := by decide

theorem decode_encode_clrall : decode (encode .clrall) = .command .clrall := by decide

theorem decode_encode_pcopy (d a : Slot) : decode (encode (.pcopy d a)) = .command (.pcopy d a) := by
  obtain ⟨_, rfl, rfl, hdec⟩ := decode_packWord_f2 d a (opc := 0x08) (by decide) rfl
  exact hdec

theorem decode_encode_pzero (d : Slot) (t : Domain) : decode (encode (.pzero d t)) = .command (.pzero d t) := by
  obtain ⟨_, rfl, rfl, hdec⟩ := decode_packWord_f1t d t (opc := 0x09) (by decide) rfl
  exact hdec

theorem decode_encode_settag (d : Slot) (t : Domain) : decode (encode (.settag d t)) = .command (.settag d t) := by
  obtain ⟨_, rfl, rfl, hdec⟩ := decode_packWord_f1t d t (opc := 0x0A) (by decide) rfl
  exact hdec

/-- A command without a range or a domain to check (60_exceptions.md R226) is accepted and has its effect, in every
state. -/
theorem unchecked_command {i : Instr} {s : State} {effect : State → State} (hdec : decode (encode i) = .command i)
    (hrange : rangeOk s.k i = true) (hdomain : domainOk s i = true) (hexec : exec i s = runChecked i s effect) :
    Accepted i s ∧ exec i s = .next (effect s) :=
  ⟨accepted_of_checked hdec hrange hdomain, hexec.trans (runChecked_ok i s effect hrange hdomain)⟩

/-- Writing a slot with what it holds changes nothing. -/
theorem writeSlot_slot_tag (s : State) (d : Slot) : s.writeSlot d (s.slot d) (s.tag d) = s := by
  simp [State.writeSlot, State.setSlot, State.setTag, State.slot, State.tag]

/-- The frame of a command that writes one tag. -/
theorem framedBy_setTag (s : State) (d : Slot) (t : Domain) : FramedBy [d] s (s.setTag d t) :=
  ⟨rfl, fun e he => ⟨slot_setTag s d e t, tag_setTag_ne s d e t fun h => he (List.mem_singleton.mpr h)⟩⟩

theorem slot_zeroSlotFile (s : State) (e : Slot) : s.zeroSlotFile.slot e = ringZero := by
  simp [State.slot]

theorem tag_zeroSlotFile (s : State) (e : Slot) : s.zeroSlotFile.tag e = .normal := by
  simp [State.tag]

/-- Settles O25: no check; the write of the source's polynomial and tag, which `d = a` makes the identity. -/
theorem pcopyRule : Obligations.PcopyRule := by
  intro d a
  have hdec := decode_encode_pcopy d a
  refine ⟨issuedLikeEveryCommand_f2 d a (by decide) rfl rfl hdec, fun s => ?_⟩
  obtain ⟨haccepted, hnext⟩ :=
    unchecked_command (s := s) (effect := fun s => s.writeSlot d (s.slot a) (s.tag a)) hdec rfl rfl rfl
  refine ⟨haccepted, _, hnext, framedBy_writeSlot s d _ _, slot_writeSlot_self s d _ _,
    tag_writeSlot_self s d _ _, ?_⟩
  rintro rfl
  exact writeSlot_slot_tag s d

/-- Settles O26: no check; the write of the zero polynomial under the given tag. -/
theorem pzeroRule : Obligations.PzeroRule := by
  intro d t
  have hdec := decode_encode_pzero d t
  refine ⟨issuedLikeEveryCommand_f1t d t (by decide) rfl rfl hdec, fun s => ?_⟩
  obtain ⟨haccepted, hnext⟩ :=
    unchecked_command (s := s) (effect := fun s => s.writeSlot d ringZero t) hdec rfl rfl rfl
  refine ⟨haccepted, _, hnext, framedBy_writeSlot s d _ _, tag_writeSlot_self s d _ _, fun j hj => ?_⟩
  rw [slot_writeSlot_self, coeffAt_ringZero hj]

/-- Settles O27: no check; the write of the tag alone. -/
theorem settagRule : Obligations.SettagRule := by
  intro d t
  have hdec := decode_encode_settag d t
  refine ⟨issuedLikeEveryCommand_f1t d t (by decide) rfl rfl hdec, fun s => ?_⟩
  obtain ⟨haccepted, hnext⟩ := unchecked_command (s := s) (effect := fun s => s.setTag d t) hdec rfl rfl rfl
  exact ⟨haccepted, _, hnext, framedBy_setTag s d t, tag_setTag_self s d t, setTag_slots s d t⟩

/-- Settles O28: no check; the effect is the slot file and tag file of the zeroization. -/
theorem clrallRule : Obligations.ClrallRule := by
  have hdec := decode_encode_clrall
  refine ⟨issuedLikeEveryCommand (f := .f0) (by decide) rfl hdec, fun s => ?_⟩
  obtain ⟨haccepted, hnext⟩ := unchecked_command (s := s) (effect := State.zeroSlotFile) hdec rfl rfl rfl
  refine ⟨haccepted, _, hnext, rfl, fun e => ⟨tag_zeroSlotFile s e, fun j hj => ?_⟩, rfl, rfl⟩
  rw [slot_zeroSlotFile, coeffAt_ringZero hj]

/-- Settles O18: no check and no effect. -/
theorem nopRule : Obligations.NopRule :=
  ⟨issuedLikeEveryCommand (f := .f0) (by decide) rfl decode_encode_nop,
    fun _ => unchecked_command (effect := id) decode_encode_nop rfl rfl rfl⟩

end Sys2Proof.Proofs

namespace Sys2Proof.Proofs

open Sys2Proof.Machine Sys2Proof.Safety Sys2Proof.Laws

/-! ### The CMD write (60_exceptions.md R224) -/

/-- The error that the checks of a CMD write find while no record is held, if any, in their order
(60_exceptions.md R224). -/
def gateError (s : State) (w : Word) : Option ErrCode :=
  if s.busy then some .cmdBusy
  else match decode w with
    | .illegal => some .illegalOpcode
    | .reserved => some .reservedNonzero
    | .command i =>
      if rangeOk s.k i = false then some .slotRange
      else if domainOk s i = false then some .domain
      else none

/-- With no record held, a CMD write records the error its checks find, or accepts the word. -/
theorem onCmdWrite_of_no_err {s : State} (w : Word) (he : s.err = false) :
    s.onCmdWrite w = (gateError s w).elim (s.accept w) (s.record · w) := by
  unfold State.onCmdWrite gateError
  rw [if_neg (by simp [he])]
  cases s.busy with
  | true => rfl
  | false =>
    cases decode w with
    | illegal => rfl
    | reserved => rfl
    | command i => cases hr : rangeOk s.k i <;> cases hd : domainOk s i <;> simp [hr, hd, State.cmdError]

/-- The codes of a CmdError (60_exceptions.md R221). -/
theorem gateError_mem {s : State} {w : Word} {c : ErrCode} (h : gateError s w = some c) :
    c ∈ [ErrCode.illegalOpcode, .reservedNonzero, .slotRange, .domain, .cmdBusy] := by
  unfold gateError at h
  split at h
  · cases h; decide
  · split at h
    · cases h; decide
    · cases h; decide
    · split at h
      · cases h; decide
      · split at h
        · cases h; decide
        · cases h

/-- The domain check reads K and the tags alone (60_exceptions.md R226). -/
theorem domainOk_congr {s s' : State} (hb : s.build = s'.build) (ht : s.tags = s'.tags) (i : Instr) :
    domainOk s i = domainOk s' i := by
  have htag : s.tag = s'.tag := funext fun e => by rw [State.tag, ht, State.tag]
  have hk : s.k = s'.k := by rw [State.k, hb, State.k]
  cases i <;> simp only [domainOk, State.allTagged, State.sameTags, htag, hk]

/-- The checks of a CMD write read the build, the tags and BUSY alone (60_exceptions.md R239). -/
theorem gateError_congr {s s' : State} (hb : s.build = s'.build) (ht : s.tags = s'.tags) (hbusy : s.busy = s'.busy)
    (w : Word) : gateError s w = gateError s' w := by
  have hk : s.k = s'.k := by rw [State.k, hb, State.k]
  simp only [gateError, hbusy, hk, domainOk_congr hb ht]

/-- Settles O38: each outcome by the checks that lead to it. -/
theorem cmdWriteGate : Obligations.CmdWriteGate := by
  intro s w hr
  refine ⟨s.onCmdWrite w, hostWrites_cmd s w hr, onCmdWrite_of_err w, fun he hb => ?_,
    fun he hb => ⟨fun hw => ?_, fun hw => ?_, fun i hw => ⟨fun hrange => ?_, fun hrange hdom => ?_, ?_⟩⟩⟩
  · exact onCmdWrite_of_busy w he hb ▸ raisedFrom_record _ _ s
  · exact onCmdWrite_of_illegal he hb hw ▸ raisedFrom_record _ _ s
  · exact onCmdWrite_of_reserved he hb hw ▸ raisedFrom_record _ _ s
  · exact onCmdWrite_of_slotRange he hb hw hrange ▸ raisedFrom_record _ _ s
  · exact onCmdWrite_of_domain he hb hw hrange hdom ▸ raisedFrom_record _ _ s
  · exact onCmdWrite_of_checked he hb hw

/-! ### The STATUS write (60_exceptions.md R231) -/

/-- The decoder answers every command for its own word. -/
theorem decode_encode (i : Instr) : decode (encode i) = .command i := by
  cases i with
  | nop => exact decode_encode_nop
  | padd d a b => exact decode_encode_padd d a b
  | psub d a b => exact decode_encode_psub d a b
  | pntt d a => exact decode_encode_pntt d a
  | pintt d a => exact decode_encode_pintt d a
  | pmul d a b => exact decode_encode_pmul d a b
  | pmac d a b => exact decode_encode_pmac d a b
  | pcopy d a => exact decode_encode_pcopy d a
  | pzero d t => exact decode_encode_pzero d t
  | settag d t => exact decode_encode_settag d t
  | clrall => exact decode_encode_clrall
  | vadd d a b => exact decode_encode_vadd d a b
  | vsub d a b => exact decode_encode_vsub d a b
  | vntt d a => exact decode_encode_vntt d a
  | vintt d a => exact decode_encode_vintt d a
  | vpmul d a b => exact decode_encode_vpmul d a b
  | vdot d a b => exact decode_encode_vdot d a b

/-- A STATUS write is the clearing of DONE by bit 1 and of the record by bit 2. -/
theorem onStatusWrite_eq (s : State) (v : Word) :
    s.onStatusWrite v = { s with
      done := if v.getLsbD 1 then false else s.done
      err := if v.getLsbD 2 then false else s.err
      errCode := if v.getLsbD 2 then .none else s.errCode
      errInfo := if v.getLsbD 2 then 0 else s.errInfo } := by
  unfold State.onStatusWrite
  cases v.getLsbD 1 <;> cases v.getLsbD 2 <;> rfl

/-- Settles O40: the gate reads nothing that a STATUS write changes but ERR. -/
theorem statusWriteClears : Obligations.StatusWriteClears := by
  intro s v hr
  have heq := onStatusWrite_eq s v
  refine ⟨s.onStatusWrite v, hostWrites_intro s 0x008 v (by decide) rfl hr, heq,
    fun he code info => record_of_err s code info he, fun hv hbusy i hrange hdom => ?_⟩
  have haccept : (s.onStatusWrite v).onCmdWrite (encode i) = (s.onStatusWrite v).accept (encode i) := by
    rw [heq]
    exact onCmdWrite_of_checked (if_pos hv) hbusy (decode_encode i) hrange ((domainOk_congr rfl rfl i).trans hdom)
  exact ⟨_, hostWrites_cmd _ (encode i) (heq ▸ hr), congrArg State.pend haccept⟩

end Sys2Proof.Proofs

namespace Sys2Proof.Proofs

open Sys2Proof.Machine Sys2Proof.Safety Sys2Proof.Laws

/-! ### Addresses inside and outside the window (20_memory.md R62) -/

/-- An address is outside the window or is an offset from its base. -/
theorem offset_cases (b : Build) (addr : Nat) :
    Build.offset b addr = none ∨ ∃ off < 4096, addr = b.base + off := by
  unfold Build.offset
  split
  · exact .inr ⟨addr - b.base, by omega, by omega⟩
  · exact .inl rfl

theorem hostAccess_write_outside (s : State) {addr : Nat} (size : Nat) (w : Word)
    (h : Build.offset s.build addr = none) : s.hostAccess (.write addr size w) = s := by
  rw [State.hostAccess, h]

theorem hostAccess_read_outside (s : State) {addr : Nat} (size : Nat) (h : Build.offset s.build addr = none) :
    s.hostAccess (.read addr size) = s := by
  rw [State.hostAccess, h]

/-- An access that takes effect is an aligned word (20_memory.md R64). -/
theorem word_of_takesEffect {s : State} {off size : Nat} (h : s.takesEffect off size = true) :
    size = 4 ∧ off % 4 = 0 := by
  simp only [State.takesEffect, Bool.and_eq_true, decide_eq_true_eq] at h
  obtain ⟨⟨-, hsize⟩, halign⟩ := h
  exact ⟨hsize, halign⟩

/-- Everything a host access can do: at most the read data changes, or an aligned word is written to its register. -/
theorem hostAccess_cases (s : State) (a : Access) :
    (∃ d, s.hostAccess a = { s with rdata := d }) ∨
      ∃ off w, a = .write (s.build.base + off) 4 w ∧ off % 4 = 0 ∧ s.hostAccess a = s.writeReg (regAt off) w := by
  cases a with
  | read addr size =>
    rcases offset_cases s.build addr with hout | ⟨off, ho, rfl⟩
    · exact .inl ⟨s.rdata, hostAccess_read_outside s size hout⟩
    · exact .inl ⟨_, hostAccess_read s off size ho⟩
  | write addr size w =>
    rcases offset_cases s.build addr with hout | ⟨off, ho, rfl⟩
    · exact .inl ⟨s.rdata, hostAccess_write_outside s size w hout⟩
    · rw [hostAccess_write s off size w ho]
      split
      next he =>
        obtain ⟨rfl, halign⟩ := word_of_takesEffect he
        exact .inr ⟨off, w, rfl, halign, rfl⟩
      next => exact .inl ⟨s.rdata, rfl⟩

/-! ### Errors do not depend on coefficients (60_exceptions.md R239) -/

/-- `s` with another slot file. -/
def withSlots (s : State) (p : Vector RingElem 32) : State := { s with slots := p }

@[simp] theorem withSlots_build (s : State) (p : Vector RingElem 32) : (withSlots s p).build = s.build := rfl
@[simp] theorem withSlots_takesEffect (s : State) (p : Vector RingElem 32) (off size : Nat) :
    (withSlots s p).takesEffect off size = s.takesEffect off size := rfl

/-- Two states differ in the slot file alone. -/
def SameButSlots (t t' : State) : Prop := t' = { t with slots := t'.slots }

theorem sameButSlots_record (s : State) (p : Vector RingElem 32) (c : ErrCode) (info : Word) :
    SameButSlots (s.record c info) ((withSlots s p).record c info) := by
  cases he : s.err with
  | true => rw [record_of_err s c info he, record_of_err (withSlots s p) c info he]; rfl
  | false => rw [record_of_no_err s c info he, record_of_no_err (withSlots s p) c info he]; rfl

theorem sameButSlots_onCmdWrite (s : State) (p : Vector RingElem 32) (w : Word) :
    SameButSlots (s.onCmdWrite w) ((withSlots s p).onCmdWrite w) := by
  cases he : s.err with
  | true => rw [onCmdWrite_of_err w he, onCmdWrite_of_err (s := withSlots s p) w he]; rfl
  | false =>
    have hgate : gateError (withSlots s p) w = gateError s w := gateError_congr rfl rfl rfl w
    rw [onCmdWrite_of_no_err w he, onCmdWrite_of_no_err (s := withSlots s p) w he, hgate]
    cases gateError s w with
    | none => rfl
    | some c => exact sameButSlots_record s p c w

theorem sameButSlots_onWinWrite (s : State) (p : Vector RingElem 32) (j : Fin 256) (w : Word) :
    SameButSlots (s.onWinWrite j w) ((withSlots s p).onWinWrite j w) := by
  cases hb : s.busy with
  | true =>
    rw [onWinWrite_of_busy s j w hb, onWinWrite_of_busy (withSlots s p) j w hb]
    exact sameButSlots_record s p _ _
  | false =>
    rcases Nat.lt_or_ge w.toNat 3329 with hq | hq
    · rw [onWinWrite_of_canonical s j w hb hq, onWinWrite_of_canonical (withSlots s p) j w hb hq]; rfl
    · rw [onWinWrite_of_range s j w hb hq, onWinWrite_of_range (withSlots s p) j w hb hq]
      exact sameButSlots_record s p _ _

/-- A register write carries nothing from the slot file to the rest of the state. -/
theorem sameButSlots_writeReg (s : State) (p : Vector RingElem 32) (g : Reg) (w : Word) :
    SameButSlots (s.writeReg g w) ((withSlots s p).writeReg g w) := by
  cases g with
  | id => rfl
  | tags => rfl
  | errInfo => rfl
  | reserved => rfl
  | ctrl => simp only [State.writeReg, State.onCtrlWrite]; cases w.getLsbD 1 <;> rfl
  | status => simp only [State.writeReg, onStatusWrite_eq]; rfl
  | cmd => exact sameButSlots_onCmdWrite s p w
  | winsel =>
    simp only [State.writeReg]
    cases hb : s.busy with
    | true =>
      rw [onWinselWrite_of_busy s w hb, onWinselWrite_of_busy (withSlots s p) w hb]
      exact sameButSlots_record s p _ _
    | false => rw [onWinselWrite_of_not_busy s w hb, onWinselWrite_of_not_busy (withSlots s p) w hb]; rfl
  | win j => exact sameButSlots_onWinWrite s p j w

/-- A host write carries nothing from the slot file to the rest of the state. -/
theorem sameButSlots_hostWrite (s : State) (p : Vector RingElem 32) (addr size : Nat) (w : Word) :
    SameButSlots (s.hostAccess (.write addr size w)) ((withSlots s p).hostAccess (.write addr size w)) := by
  rcases offset_cases s.build addr with hout | ⟨off, ho, rfl⟩
  · rw [hostAccess_write_outside s size w hout, hostAccess_write_outside (withSlots s p) size w hout]; rfl
  · have hwrite := hostAccess_write (withSlots s p) off size w ho
    rw [withSlots_build, withSlots_takesEffect] at hwrite
    rw [hostAccess_write s off size w ho, hwrite]
    split
    · exact sameButSlots_writeReg s p (regAt off) w
    · rfl

/-- Settles O42: the gate's checks see no coefficient, and no write carries one out of the slot file. -/
theorem errorsIgnoreCoefficients : Obligations.ErrorsIgnoreCoefficients := by
  refine ⟨fun s s' w hb ht hbusy he he' => ?_, fun s p addr size v => ?_⟩
  · rw [onCmdWrite_of_no_err w he, onCmdWrite_of_no_err w he', gateError_congr hb ht hbusy w]
    cases gateError s' w with
    | none => simp [he, he']
    | some c => simp [record_of_no_err, he, he']
  · exact ⟨_, _, takes_access_intro s _, takes_access_intro (withSlots s p) _,
      sameButSlots_hostWrite s p addr size v⟩

end Sys2Proof.Proofs

namespace Sys2Proof.Proofs

open Sys2Proof.Machine Sys2Proof.Safety Sys2Proof.Laws

/-! ### What can change the error record (60_exceptions.md R220, R223) -/

/-- ERR, ERRCODE and ERRINFO of `t` are those of `s`. -/
def SameRecord (s t : State) : Prop := t.err = s.err ∧ t.errCode = s.errCode ∧ t.errInfo = s.errInfo

theorem SameRecord.refl (s : State) : SameRecord s s := ⟨rfl, rfl, rfl⟩

theorem sameRecord_record_of_err {s : State} (c : ErrCode) (info : Word) (he : s.err = true) :
    SameRecord s (s.record c info) := by
  rw [record_of_err s c info he]; exact SameRecord.refl s

theorem sameRecord_of_onlySlotsAndTags {s t : State} (h : OnlySlotsAndTags s t) : SameRecord s t := by
  rw [h]; exact ⟨rfl, rfl, rfl⟩

/-- The error `c` with ERRINFO `info` is one that a write of `w` to this register can record: a CmdError at CMD, a
WinError at WINSEL and WIN, none elsewhere (60_exceptions.md R220 to R222). -/
def RecordableBy (w : Word) (c : ErrCode) (info : Word) : Reg → Prop
  | .cmd => info = w ∧ c ∈ [.illegalOpcode, .reservedNonzero, .slotRange, .domain, .cmdBusy]
  | .winsel | .win _ => c ∈ [.winRange, .winBusy]
  | _ => False

/-- A write of `w` to this register clears the record: STATUS by bit 2, CTRL by SRST (60_exceptions.md R231;
70_reset_and_hazards.md R261). -/
def ClearedBy (w : Word) : Reg → Prop
  | .status => w.getLsbD 2 = true
  | .ctrl => w.getLsbD 1 = true
  | _ => False

/-- Everything a register write can do to the error record. -/
theorem writeReg_record_cases (s : State) (g : Reg) (w : Word) :
    SameRecord s (s.writeReg g w) ∨ ((s.writeReg g w).err = false ∧ ClearedBy w g) ∨
      ∃ c info, RecordableBy w c info g ∧ s.writeReg g w = s.record c info := by
  cases g with
  | id => exact .inl (SameRecord.refl s)
  | tags => exact .inl (SameRecord.refl s)
  | errInfo => exact .inl (SameRecord.refl s)
  | reserved => exact .inl (SameRecord.refl s)
  | ctrl =>
    simp only [State.writeReg]
    cases hv : w.getLsbD 1 with
    | true => rw [onCtrlWrite_of_srst s w hv]; exact .inr (.inl ⟨rfl, hv⟩)
    | false => rw [onCtrlWrite_of_no_srst s w hv]; exact .inl ⟨rfl, rfl, rfl⟩
  | status =>
    simp only [State.writeReg, onStatusWrite_eq]
    cases hv : w.getLsbD 2 with
    | true => exact .inr (.inl ⟨rfl, hv⟩)
    | false => exact .inl ⟨rfl, rfl, rfl⟩
  | cmd =>
    simp only [State.writeReg]
    cases he : s.err with
    | true => rw [onCmdWrite_of_err w he]; exact .inl (SameRecord.refl s)
    | false =>
      rw [onCmdWrite_of_no_err w he]
      cases hg : gateError s w with
      | none => exact .inl ⟨rfl, rfl, rfl⟩
      | some c => exact .inr (.inr ⟨c, w, ⟨rfl, gateError_mem hg⟩, rfl⟩)
  | winsel =>
    simp only [State.writeReg]
    cases hb : s.busy with
    | true => exact .inr (.inr ⟨.winBusy, _, .tail _ (.head _), onWinselWrite_of_busy s w hb⟩)
    | false => rw [onWinselWrite_of_not_busy s w hb]; exact .inl ⟨rfl, rfl, rfl⟩
  | win j =>
    simp only [State.writeReg]
    cases hb : s.busy with
    | true => exact .inr (.inr ⟨.winBusy, _, .tail _ (.head _), onWinWrite_of_busy s j w hb⟩)
    | false =>
      rcases Nat.lt_or_ge w.toNat 3329 with hq | hq
      · rw [onWinWrite_of_canonical s j w hb hq]; exact .inl ⟨rfl, rfl, rfl⟩
      · exact .inr (.inr ⟨.winRange, _, .head _, onWinWrite_of_range s j w hb hq⟩)

/-- Every meaning is a command rule whose effect touches the slot file and the tag file only. -/
theorem exec_is_framed_runChecked (i : Instr) (s : State) :
    ∃ f, exec i s = runChecked i s f ∧ OnlySlotsAndTags s (f s) := by
  cases i with
  | nop => exact ⟨fun s => s, rfl, rfl⟩
  | settag d t => exact ⟨fun s => s.setTag d t, rfl, rfl⟩
  | clrall => exact ⟨State.zeroSlotFile, rfl, rfl⟩
  | padd | psub | pntt | pintt | pmul | pmac | pcopy | pzero | vdot =>
    simp only [exec, execPadd, execPsub, execPntt, execPintt, execPmul, execPmac, execPcopy, execPzero, execVdot]
    exact ⟨_, rfl, writeSlot_only s _ _ _⟩
  | vadd | vsub | vntt | vintt | vpmul =>
    simp only [exec, execVadd, execVsub, execVntt, execVintt, execVpmul]
    exact ⟨_, rfl, writeVector_only s _ _ _ _⟩

/-- A command changes the error record only if none is held and a check fails. -/
theorem exec_keeps_record {i : Instr} {s t : State} (h : exec i s = .next t)
    (hkeep : s.err = true ∨ rangeOk s.k i = true ∧ domainOk s i = true) : SameRecord s t := by
  obtain ⟨f, hf, honly⟩ := exec_is_framed_runChecked i s
  rw [hf] at h
  rcases hkeep with he | ⟨hr, hd⟩
  · rcases runChecked_cases i s f with ⟨-, hc⟩ | ⟨-, -, hc⟩ | ⟨-, -, hc⟩ <;>
      obtain rfl := Host.Outcome.next.inj (hc.symm.trans h)
    · exact sameRecord_record_of_err _ _ he
    · exact sameRecord_record_of_err _ _ he
    · exact sameRecord_of_onlySlotsAndTags honly
  · obtain rfl := Host.Outcome.next.inj ((runChecked_ok i s f hr hd).symm.trans h)
    exact sameRecord_of_onlySlotsAndTags honly

/-- The engine's turn never clears a record, and records no error for a command that was checked
(60_exceptions.md R220, R223). -/
theorem engineStep_keeps_record {s t : State} (h : s.engineStep = .next t)
    (hkeep : s.err = true ∨ PendingChecked s) : SameRecord s t := by
  rcases engineStep_cases s with ⟨hs, -⟩ | ⟨hs, -⟩ | ⟨i, u, hdec, hexec, hs, -, hv⟩ | ⟨hs, -⟩
  · obtain rfl := Host.Outcome.next.inj (hs.symm.trans h)
    exact SameRecord.refl s
  · obtain rfl := Host.Outcome.next.inj (hs.symm.trans h)
    exact ⟨rfl, rfl, rfl⟩
  · obtain rfl := Host.Outcome.next.inj (hs.symm.trans h)
    refine exec_keeps_record (t := u) hexec (hkeep.imp_right fun hp => ?_)
    obtain ⟨-, i', hdec', hchecks⟩ := hp hv
    obtain rfl := Decoded.command.inj (hdec'.symm.trans hdec)
    exact hchecks
  · exact nomatch hs.symm.trans h

theorem rstInput_of_eq {s : State} {b : Bool} (h : b = s.rst) : s.rstInput b = s := if_pos h

theorem rstInput_of_ne {s : State} {b : Bool} (h : b ≠ s.rst) : s.rstInput b = { s.resetEvent with rst := b } :=
  if_neg h

theorem pendingChecked_withEvents {s : State} (r : List Event) (h : PendingChecked s) :
    PendingChecked (withEvents s r) := fun hv => by
  obtain ⟨hlast, i, hdec, hr, hd⟩ := h hv
  exact ⟨hlast, i, hdec, hr, (domainOk_withEvents s r i).trans hd⟩

/-- Everything a step can do: the engine's turn, a host access, or a level of RST. -/
theorem step_cases {s t : State} (h : step s = .next t) :
    (∃ rest, (withEvents s rest).engineStep = .next t) ∨
    (∃ a rest, s.events = .access a :: rest ∧ t = (withEvents s rest).hostAccess a) ∨
    ∃ b rest, s.events = .rst b :: rest ∧ t = (withEvents s rest).rstInput b := by
  unfold step at h
  split at h
  next hev => exact .inl ⟨[], by rwa [withEvents, ← hev]⟩
  next rest _ => exact .inl ⟨rest, h⟩
  next a rest hev => exact .inr (.inl ⟨a, rest, hev, (Host.Outcome.next.inj h).symm⟩)
  next b rest hev => exact .inr (.inr ⟨b, rest, hev, (Host.Outcome.next.inj h).symm⟩)

/-- Everything a step can do to the error record, when one is held or the pending command was checked: keep it, clear it
by a change of RST, or clear or write it by a register write. -/
theorem step_record_cases {s t : State} (h : step s = .next t) (hkeep : s.err = true ∨ PendingChecked s) :
    SameRecord s t ∨ (t.err = false ∧ ∃ rest, s.events = .rst (!s.rst) :: rest) ∨
      ∃ off v rest, s.events = .access (.write (s.build.base + off) 4 v) :: rest ∧ off % 4 = 0 ∧
        ((t.err = false ∧ ClearedBy v (regAt off)) ∨
          ∃ c info, RecordableBy v c info (regAt off) ∧ t = (withEvents s rest).record c info) := by
  rcases step_cases h with ⟨rest, hengine⟩ | ⟨a, rest, hev, rfl⟩ | ⟨b, rest, hev, rfl⟩
  · exact .inl (engineStep_keeps_record (s := withEvents s rest) hengine
      (hkeep.imp_right (pendingChecked_withEvents rest)))
  · rcases hostAccess_cases (withEvents s rest) a with ⟨d, ha⟩ | ⟨off, v, rfl, halign, ha⟩ <;> rw [ha]
    · exact .inl ⟨rfl, rfl, rfl⟩
    · rcases writeReg_record_cases (withEvents s rest) (regAt off) v with hsame | hclear | hrec
      · exact .inl hsame
      · exact .inr (.inr ⟨off, v, rest, hev, halign, .inl hclear⟩)
      · exact .inr (.inr ⟨off, v, rest, hev, halign, .inr hrec⟩)
  · by_cases hb : b = s.rst
    · rw [rstInput_of_eq (s := withEvents s rest) hb]; exact .inl ⟨rfl, rfl, rfl⟩
    · rw [rstInput_of_ne (s := withEvents s rest) hb]
      exact .inr (.inl ⟨rfl, rest, by rw [hev, Bool.eq_not.mpr hb]⟩)

/-- The register lies at this offset of the window (10_state.md R26). -/
def LiesAt (off : Nat) : Reg → Prop
  | .id => off = 0x000
  | .ctrl => off = 0x004
  | .status => off = 0x008
  | .cmd => off = 0x00C
  | .winsel => off = 0x010
  | .tags => off = 0x014
  | .errInfo => off = 0x018
  | .win _ => 0x400 ≤ off ∧ off < 0x800
  | .reserved => True

theorem liesAt_regAt (off : Nat) : LiesAt off (regAt off) := by
  unfold regAt
  iterate 8 (split; assumption)
  trivial

/-- A register whose write clears the record is STATUS or CTRL. -/
theorem clearedBy_regAt {off : Nat} {v : Word} (h : ClearedBy v (regAt off)) :
    off = 0x008 ∧ v.getLsbD 2 = true ∨ off = 0x004 ∧ v.getLsbD 1 = true := by
  have hat := liesAt_regAt off
  cases hg : regAt off <;> rw [hg] at h hat
  case status => exact .inl ⟨hat, h⟩
  case ctrl => exact .inr ⟨hat, h⟩
  all_goals exact h.elim

/-- A register whose write records an error is CMD, WINSEL or a word of WIN. -/
theorem recordableBy_regAt {off : Nat} {v info : Word} {c : ErrCode} (h : RecordableBy v c info (regAt off)) :
    off = 0x00C ∧ info = v ∧ c ∈ [.illegalOpcode, .reservedNonzero, .slotRange, .domain, .cmdBusy] ∨
      (off = 0x010 ∨ 0x400 ≤ off ∧ off < 0x800) ∧ c ∈ [.winRange, .winBusy] := by
  have hat := liesAt_regAt off
  cases hg : regAt off <;> rw [hg] at h hat
  case cmd => exact .inl ⟨hat, h⟩
  case winsel => exact .inr ⟨.inl hat, h⟩
  case win => exact .inr ⟨.inr hat, h⟩
  all_goals exact h.elim

/-- Settles O39: recording over a held record changes nothing, so of what a step can do only the clearings are left. -/
theorem recordFirstErrorWins : Obligations.RecordFirstErrorWins := by
  refine ⟨fun s code info => ⟨record_of_no_err s code info, record_of_err s code info⟩, fun s t hstep he => ?_⟩
  rcases step_record_cases hstep (.inl he) with
    ⟨herr, hcode, hinfo⟩ | ⟨-, hrst⟩ | ⟨off, v, rest, hev, -, ⟨-, hclear⟩ | ⟨c, info, -, rfl⟩⟩
  · exact .inl ⟨herr.trans he, hcode, hinfo⟩
  · exact .inr (.inl hrst)
  · exact .inr (.inr ⟨off, v, rest, hev, clearedBy_regAt hclear⟩)
  · rw [record_of_err (withEvents s rest) c info he]
    exact .inl ⟨he, rfl, rfl⟩

/-- Settles O41: the invariant says that the pending command was checked, so of what a step can do only the recordings
by a register write are left. -/
theorem errorsOnlyFromCmdAndWindowWrites : Obligations.ErrorsOnlyFromCmdAndWindowWrites := by
  intro s t hinv hstep he ht
  rcases step_record_cases hstep (.inr hinv.pendingChecked) with
    ⟨herr, -⟩ | ⟨herr, -⟩ | ⟨off, v, rest, hev, halign, ⟨herr, -⟩ | ⟨c, info, hrec, rfl⟩⟩
  · exact absurd (ht.symm.trans (herr.trans he)) (by decide)
  · exact absurd (ht.symm.trans herr) (by decide)
  · exact absurd (ht.symm.trans herr) (by decide)
  · rw [record_of_no_err (withEvents s rest) c info he]
    refine ⟨off, v, rest, hev, (recordableBy_regAt hrec).imp_right fun ⟨hoff, hcode⟩ => ⟨?_, hcode⟩⟩
    omega

end Sys2Proof.Proofs

namespace Sys2Proof.Proofs

open Sys2Proof.Machine Sys2Proof.Safety Sys2Proof.Laws

/-! ### The hard reset (70_reset_and_hazards.md R260) -/

/-- No access takes effect while RST is asserted. -/
theorem takesEffect_of_rst {s : State} (hr : s.rst = true) (off size : Nat) : s.takesEffect off size = false := by
  rw [State.takesEffect, hr, Bool.not_true, Bool.false_and, Bool.false_and]

/-- `s` after a reset event that leaves RST at the level `b`. -/
def resetAt (s : State) (b : Bool) : State := State.resetEvent { s with rst := b }

/-- A change of the RST level, as an event, is a reset event at the new level (20_memory.md R77). -/
theorem takes_rst_of_ne {s : State} {b : Bool} (h : b ≠ s.rst) : Takes s (.rst b) (resetAt s b) := by
  have hevent := takes_rst_intro s b
  rwa [rstInput_of_ne h] at hevent

/-- Two reset events in a row leave the reset values of R42, like one. -/
theorem resetFrom_resetAt_resetAt (s : State) (b c : Bool) : ResetFrom s (resetAt (resetAt s b) c) := rfl

/-- With RST released, the engine's turn after a reset event is the zeroization. -/
theorem takes_engine_resetAt (s : State) : Takes (resetAt s false) .engine (zeroized (resetAt s false)) :=
  takes_engine_resetEvent { s with rst := false } rfl

/-- Settles O47: both changes of RST are reset events, and in between no access takes effect. -/
theorem hardReset : Obligations.HardReset := by
  intro s hr
  have hassert : Takes s (.rst true) (resetAt s true) := takes_rst_of_ne (by simp [hr])
  have hrelease : Takes (resetAt s true) (.rst false) (resetAt (resetAt s true) false) :=
    takes_rst_of_ne Bool.false_ne_true
  refine ⟨resetAt s true, resetAt (resetAt s true) false, hassert, rfl, fun off ho size v => ?_, hrelease,
    resetFrom_resetAt_resetAt s true false, rfl, takes_engine_resetAt (resetAt s true)⟩
  have hignored : (resetAt s true).takesEffect off size = false := takesEffect_of_rst rfl off size
  exact ⟨takes_ignored_write _ v ho hignored, takes_ignored_read _ ho hignored⟩

end Sys2Proof.Proofs

namespace Sys2Proof.Proofs

open Sys2Proof.Machine Sys2Proof.Safety Sys2Proof.Laws

/-! ### The round trips of the command encoding (30_encoding.md R91 to R98) -/

/-- Settles O1: by the case analysis of `decode_encode`, one format's packed word for each command. -/
theorem decodeEncodeRoundTrip : Obligations.DecodeEncodeRoundTrip := decode_encode

/-- The word of an opcode and its fields, the fields that the format does not use being 0 (30_encoding.md R91, R93). -/
def packFields (x : Fields) (opc : Nat) : Format → Word
  | .f0 => packWord 0 0 0 opc
  | .f1t => packWord 0 x.t.toNat x.rd opc
  | .f2 => packWord 0 x.ra x.rd opc
  | .f3 => packWord x.rb x.ra x.rd opc

/-- The encoder packs the fields that the decoder's row takes. -/
theorem encode_of_row {opc : Nat} {f : Format} {c : Fields → Instr} (h : opcodeRow opc = some (f, c)) (x : Fields) :
    encode (c x) = packFields x opc f := by
  unfold opcodeRow at h
  split at h <;> cases h <;> rfl

/-- A word with no bit under a mask is 0 in each field that the mask covers. -/
theorem field_eq_zero_of_mask {w m : Word} (h : w &&& m = 0) (start len : Nat)
    (hm : m.extractLsb' start len = BitVec.allOnes len) : w.toNat / 2 ^ start % 2 ^ len = 0 := by
  have hfield := congrArg (fun v : Word => (v.extractLsb' start len).toNat) h
  simpa [BitVec.extractLsb'_and, hm, BitVec.extractLsb'_toNat, Nat.shiftRight_eq_div_pow] using hfield

theorem toNat_domainOfBit (b : BitVec 1) : (domainOfBit b).toNat = b.toNat := by
  revert b; decide

/-- The fields of a word as digits of its number (30_encoding.md R91). -/
theorem fieldsOf_digits (w : Word) :
    opcodeOf w = w.toNat % 2 ^ 8 ∧ (fieldsOf w).rd.val = w.toNat / 2 ^ 8 % 2 ^ 5 ∧
      (fieldsOf w).ra.val = w.toNat / 2 ^ 16 % 2 ^ 5 ∧ (fieldsOf w).rb.val = w.toNat / 2 ^ 24 % 2 ^ 5 ∧
      (fieldsOf w).t.toNat = w.toNat / 2 ^ 16 % 2 ^ 1 := by
  simp only [opcodeOf, fieldsOf, slotOfBits, toNat_domainOfBit, BitVec.extractLsb'_toNat, Nat.shiftRight_eq_div_pow,
    pow_zero, Nat.div_one, and_self]

/-- A word with no bit under its format's mask is packed from its fields. -/
theorem packFields_fieldsOf {f : Format} {w : Word} (h : w &&& f.zmask = 0) :
    packFields (fieldsOf w) (opcodeOf w) f = w := by
  obtain ⟨hopc, hrd, hra, hrb, ht⟩ := fieldsOf_digits w
  have hw := w.isLt
  apply BitVec.eq_of_toNat_eq
  cases f with
  | f0 =>
    have hhigh := field_eq_zero_of_mask h 8 24 (by decide)
    rw [packFields, toNat_packWord _ _ _ _ (by omega) (by omega) (by omega) (by omega)]
    omega
  | f1t =>
    have hmid := field_eq_zero_of_mask h 13 3 (by decide)
    have hhigh := field_eq_zero_of_mask h 17 15 (by decide)
    rw [packFields, toNat_packWord _ _ _ _ (by omega) (by omega) (by omega) (by omega)]
    omega
  | f2 =>
    have hmid := field_eq_zero_of_mask h 13 3 (by decide)
    have hhigh := field_eq_zero_of_mask h 21 11 (by decide)
    rw [packFields, toNat_packWord _ _ _ _ (by omega) (by omega) (by omega) (by omega)]
    omega
  | f3 =>
    have hlow := field_eq_zero_of_mask h 13 3 (by decide)
    have hmid := field_eq_zero_of_mask h 21 3 (by decide)
    have hhigh := field_eq_zero_of_mask h 29 3 (by decide)
    rw [packFields, toNat_packWord _ _ _ _ (by omega) (by omega) (by omega) (by omega)]
    omega

/-- A command's word has its opcode's row, no bit under the row's mask, and its fields as operands. -/
theorem row_of_decode {w : Word} {i : Instr} (h : decode w = .command i) :
    ∃ f c, opcodeRow (opcodeOf w) = some (f, c) ∧ w &&& f.zmask = 0 ∧ i = c (fieldsOf w) := by
  cases hrow : opcodeRow (opcodeOf w) with
  | none => exact nomatch (decode_of_no_row hrow).symm.trans h
  | some row =>
    obtain ⟨f, c⟩ := row
    rw [decode_of_row hrow] at h
    split at h
    next => exact nomatch h
    next hbits => exact ⟨f, c, rfl, not_not.mp hbits, (Decoded.command.inj h).symm⟩

/-- Settles O2: a command's word is packed from the fields that its opcode's row takes, since the mask leaves nothing
else in it. -/
theorem encodeDecodeRoundTrip : Obligations.EncodeDecodeRoundTrip := by
  intro w i h
  obtain ⟨f, c, hrow, hbits, rfl⟩ := row_of_decode h
  rw [encode_of_row hrow, packFields_fieldsOf hbits]

end Sys2Proof.Proofs

namespace Sys2Proof.Proofs

open Sys2Proof.Machine Sys2Proof.Safety Sys2Proof.Laws Polynomial

/-! ### NTT by residues of f(X) (41_ntt.md R143) -/

/-- Q is prime, so Z_Q is a field (00_scope.md R8). -/
theorem fact_prime_3329 : Fact (Nat.Prime 3329) := ⟨by norm_num⟩

/-- The polynomial of a ring element at `x` is its coefficient list at `x`. -/
theorem aeval_toPolynomial {R : Type*} [CommRing R] [Algebra (ZMod 3329) R] (x : R) (f : RingElem) :
    aeval x (toPolynomial f) = evalAt x f.toList := by
  rw [toPolynomial, map_sum, evalAt_toList]
  refine Finset.sum_congr rfl fun j _ => ?_
  rw [map_mul, aeval_C, map_pow, aeval_X]
  rfl

/-- The modulus of pair `i`, X^2 - GAM[i]. -/
noncomputable def pairModulus (i : Nat) : (ZMod 3329)[X] := X ^ 2 - C (gamma i : ZMod 3329)

theorem aeval_root_pairModulus (i : Nat) : aeval (root i) (pairModulus i) = 0 := by
  rw [pairModulus, map_sub, map_pow, aeval_X, aeval_C, root_sq, sub_self]

theorem monic_pairModulus (i : Nat) : (pairModulus i).Monic := monic_X_pow_sub_C _ two_ne_zero

/-- A linear polynomial at the root has its two coefficients as components. -/
theorem aeval_root_linear (i : Nat) (a b : ZMod 3329) : aeval (root i) (C b * X + C a) = ⟨a, b⟩ := by
  simp [root, QuadraticAlgebra.ext_iff]

/-- The residue of a polynomial modulo X^2 - GAM[i] is given by its value at the root. -/
theorem modByMonic_pairModulus {i : Nat} {p : (ZMod 3329)[X]} {a b : ZMod 3329}
    (h : aeval (root i) p = ⟨a, b⟩) : p %ₘ pairModulus i = C a + C b * X := by
  have := fact_prime_3329
  have hdeg : (p %ₘ pairModulus i).degree ≤ 1 := by
    have hlt := degree_modByMonic_lt p (monic_pairModulus i)
    rw [pairModulus, degree_X_pow_sub_C two_pos] at hlt
    exact Order.le_of_lt_succ hlt
  have hval := aeval_modByMonic_eq_self_of_root (p := p) (aeval_root_pairModulus i)
  rw [eq_X_add_C_of_degree_le_one hdeg] at hval ⊢
  rw [aeval_root_linear, h] at hval
  obtain ⟨ha, hb⟩ := QuadraticAlgebra.mk.inj hval
  rw [ha, hb, add_comm]

/-- Settles O13: pair `i` of NTT(f) is `f` at the root of X^2 - GAM[i]. -/
theorem nttResidues : Obligations.NttResidues := fun f hf i =>
  modByMonic_pairModulus ((aeval_toPolynomial _ f).trans (pairOf_ntt hf i.isLt).symm)

/-! ### The 128 moduli multiply to X^256 + 1 (41_ntt.md R143) -/

/-- GAM[i] as an element of Z_Q. -/
def gammaResidue (i : Fin 128) : ZMod 3329 := (gamma i.val : ZMod 3329)

theorem gammaResidue_eq_pow (i : Fin 128) : gammaResidue i = 17 ^ (2 * bitRev7 i + 1) := by
  rw [gammaResidue, gamma, ZMod.natCast_mod, Nat.cast_pow]
  rfl

/-- 17 is a primitive 256th root of unity (41_ntt.md R140). -/
theorem seventeen_pow_128 : (17 : ZMod 3329) ^ 128 = -1 := by decide +kernel

theorem orderOf_seventeen : orderOf (17 : ZMod 3329) = 2 ^ (7 + 1) := by
  have hhalf : (17 : ZMod 3329) ^ 2 ^ 7 = -1 := seventeen_pow_128
  exact orderOf_eq_prime_pow (by rw [hhalf]; decide) (by rw [pow_succ 2 7, pow_mul, hhalf, neg_one_sq])

/-- Every GAM[i] is a root of Y^128 + 1. -/
theorem gammaResidue_pow_128 (i : Fin 128) : gammaResidue i ^ 128 = -1 := by
  rw [gammaResidue_eq_pow, pow_right_comm, seventeen_pow_128, (odd_two_mul_add_one _).neg_one_pow]

theorem bitRev7_bitRev7 : ∀ i : Fin 128, bitRev7 i < 128 ∧ bitRev7 (bitRev7 i) = i := by decide

/-- The 128 roots are distinct, as odd powers below the order of 17. -/
theorem gammaResidue_injective : Function.Injective gammaResidue := fun i j h => by
  obtain ⟨hi, hinvi⟩ := bitRev7_bitRev7 i
  obtain ⟨hj, hinvj⟩ := bitRev7_bitRev7 j
  rw [gammaResidue_eq_pow, gammaResidue_eq_pow] at h
  have hexp := pow_injOn_Iio_orderOf (Set.mem_Iio.mpr (by rw [orderOf_seventeen]; omega))
    (Set.mem_Iio.mpr (by rw [orderOf_seventeen]; omega)) h
  have hrev : bitRev7 i = bitRev7 j := by omega
  exact Fin.ext (by rw [← hinvi, hrev, hinvj])

/-- The 128 distinct roots split Y^128 + 1. -/
theorem nodal_gammaResidue : Lagrange.nodal Finset.univ gammaResidue = X ^ 128 + C 1 := by
  have := fact_prime_3329
  have hdeg : (X ^ 128 + C 1 : (ZMod 3329)[X]).degree = 128 := degree_X_pow_add_C (by decide) 1
  have hmonic : (X ^ 128 + C 1 : (ZMod 3329)[X]).Monic := monic_X_pow_add_C 1 (by decide)
  refine eq_of_degree_le_of_eval_index_eq Finset.univ gammaResidue_injective.injOn Lagrange.degree_nodal.le ?_ ?_
    fun i hi => ?_
  · rw [Lagrange.degree_nodal, hdeg, Finset.card_univ, Fintype.card_fin]
    rfl
  · rw [Lagrange.nodal_monic.leadingCoeff, hmonic.leadingCoeff]
  · rw [Lagrange.eval_nodal_at_node hi, eval_add, eval_pow, eval_X, eval_C, gammaResidue_pow_128, neg_add_cancel]

/-- Settles O14: by the factors of Y^128 + 1 at Y = X^2. -/
theorem moduliFactorRing : Obligations.ModuliFactorRing := by
  have hcomp := congrArg (fun p => p.comp (X ^ 2)) nodal_gammaResidue
  simp only [Lagrange.nodal_eq, prod_comp, sub_comp, X_comp, C_comp, add_comp, pow_comp, C_1, one_comp, ← pow_mul,
    Nat.reduceMul] at hcomp
  unfold Obligations.ModuliFactorRing
  rw [← hcomp]
  refine Finset.prod_congr rfl fun i _ => ?_
  rw [toNat_gam i.isLt, gammaResidue]

end Sys2Proof.Proofs

namespace Sys2Proof.Proofs

open Sys2Proof.Machine Sys2Proof.Safety Sys2Proof.Laws

/-! ### The laws of the primitives (40_modarith.md R127) -/

theorem residue_zero : residue 0 = 0 := rfl

theorem residue_one : residue 1 = 1 := rfl

/-- Settles O8: both sides of each law are canonical and have the same residue in the ring Z_Q. -/
theorem modularLaws : Obligations.ModularLaws := by
  intro a b c ha hb hc
  have h0 : (0 : Coeff).toNat < 3329 := by decide
  have hab := modAdd_lt ha hb
  have hbc := modAdd_lt hb hc
  have h0b := modSub_lt h0 hb
  refine ⟨?_, ?_, ?_, ?_, ?_, ?_, ?_, ?_⟩
  · refine eq_of_residue_eq hab (modAdd_lt hb ha) ?_
    rw [residue_modAdd ha hb, residue_modAdd hb ha, add_comm]
  · refine eq_of_residue_eq (modMul_lt _ _) (modMul_lt _ _) ?_
    rw [residue_modMul, residue_modMul, mul_comm]
  · refine eq_of_residue_eq (modAdd_lt hab hc) (modAdd_lt ha hbc) ?_
    rw [residue_modAdd hab hc, residue_modAdd ha hb, residue_modAdd ha hbc, residue_modAdd hb hc, add_assoc]
  · refine eq_of_residue_eq (modMul_lt _ _) (modMul_lt _ _) ?_
    simp only [residue_modMul, mul_assoc]
  · refine eq_of_residue_eq (modMul_lt _ _) (modAdd_lt (modMul_lt _ _) (modMul_lt _ _)) ?_
    rw [residue_modAdd (modMul_lt a b) (modMul_lt a c), residue_modMul, residue_modMul, residue_modMul,
      residue_modAdd hb hc, mul_add]
  · refine eq_of_residue_eq (modAdd_lt ha h0) ha ?_
    rw [residue_modAdd ha h0, residue_zero, add_zero]
  · refine eq_of_residue_eq (modMul_lt _ _) ha ?_
    rw [residue_modMul, residue_one, mul_one]
  · refine eq_of_residue_eq (modSub_lt ha hb) (modAdd_lt ha h0b) ?_
    rw [residue_modSub ha hb, residue_modAdd ha h0b, residue_modSub h0 hb, residue_zero, zero_sub, sub_eq_add_neg]

/-! ### NTT carries sums and differences over (43_poly_addsub.md introduction) -/

/-- Where each residue of `r` is that of `p` plus `c` times that of `q`, so is the value at `x`. -/
theorem evalAt_of_residue_eq {R : Type*} [CommRing R] [Algebra (ZMod 3329) R] (x : R) {p q r : RingElem}
    {c : ZMod 3329} (h : ∀ j : Fin 256, residue r[j] = residue p[j] + c * residue q[j]) :
    evalAt x r.toList = evalAt x p.toList + algebraMap (ZMod 3329) R c * evalAt x q.toList := by
  simp only [evalAt_toList, h, map_add, map_mul, Finset.mul_sum, ← Finset.sum_add_distrib]
  exact Finset.sum_congr rfl fun j _ => by ring

/-- Where each residue of `r` is that of `p` plus `c` times that of `q`, so is the pair. -/
theorem pairOf_of_residue_eq {p q r : RingElem} {c : ZMod 3329}
    (h : ∀ j : Fin 256, residue r[j] = residue p[j] + c * residue q[j]) {i : Nat} (hi : i < 128) :
    pairOf i r.toList = pairOf i p.toList + algebraMap (ZMod 3329) (PairRing i) c * pairOf i q.toList := by
  have hcoeff (n : Nat) (hn : n < 256) :
      residue (at' r.toList n) = residue (at' p.toList n) + c * residue (at' q.toList n) := by
    simpa only [← at'_toList] using h ⟨n, hn⟩
  rw [← Algebra.smul_def]
  exact QuadraticAlgebra.ext (hcoeff _ (by omega)) (hcoeff _ (by omega))

/-- `op` is on canonical values the operation of Z_Q that adds `c` times its second operand to its first. -/
structure IsLinearOp (op : Coeff → Coeff → Coeff) (c : ZMod 3329) : Prop where
  lt : ∀ {a b : Coeff}, a.toNat < 3329 → b.toNat < 3329 → (op a b).toNat < 3329
  residue : ∀ {a b : Coeff}, a.toNat < 3329 → b.toNat < 3329 → residue (op a b) = residue a + c * residue b

theorem isLinearOp_modAdd : IsLinearOp modAdd 1 where
  lt := modAdd_lt
  residue ha hb := by rw [residue_modAdd ha hb, one_mul]

theorem isLinearOp_modSub : IsLinearOp modSub (-1) where
  lt := modSub_lt
  residue ha hb := by rw [residue_modSub ha hb, neg_one_mul, sub_eq_add_neg]

theorem canonicalElem_ringZipWith {op : Coeff → Coeff → Coeff} {c : ZMod 3329} (hop : IsLinearOp op c)
    {p q : RingElem} (hp : CanonicalElem p) (hq : CanonicalElem q) : CanonicalElem (ringZipWith op p q) := fun j => by
  rw [Fin.getElem_fin, getElem_ringZipWith op p q j j.isLt]
  exact hop.lt (hp j) (hq j)

theorem residue_ringZipWith {op : Coeff → Coeff → Coeff} {c : ZMod 3329} (hop : IsLinearOp op c)
    {p q : RingElem} (hp : CanonicalElem p) (hq : CanonicalElem q) (j : Fin 256) :
    residue (ringZipWith op p q)[j] = residue p[j] + c * residue q[j] := by
  rw [Fin.getElem_fin, getElem_ringZipWith op p q j j.isLt]
  exact hop.residue (hp j) (hq j)

/-- NTT carries a linear coefficient-wise operation over, since every pair is the value at a root. -/
theorem ntt_ringZipWith {op : Coeff → Coeff → Coeff} {c : ZMod 3329} (hop : IsLinearOp op c) {p q : RingElem}
    (hp : CanonicalElem p) (hq : CanonicalElem q) : ntt (ringZipWith op p q) = ringZipWith op (ntt p) (ntt q) := by
  have hntt {f : RingElem} (hf : CanonicalElem f) : CanonicalElem (ntt f) := (nttMatchesLoop f).2 hf
  have hpq := canonicalElem_ringZipWith hop hp hq
  refine eq_of_pairOf_eq (hntt hpq) (canonicalElem_ringZipWith hop (hntt hp) (hntt hq)) fun i hi => ?_
  rw [pairOf_ntt hpq hi, evalAt_of_residue_eq (root i) (residue_ringZipWith hop hp hq), ← pairOf_ntt hp hi,
    ← pairOf_ntt hq hi, pairOf_of_residue_eq (residue_ringZipWith hop (hntt hp) (hntt hq)) hi]

/-- Settles O17: ModAdd and ModSub are linear. -/
theorem nttAdditive : Obligations.NttAdditive := fun _ _ hp hq =>
  ⟨ntt_ringZipWith isLinearOp_modAdd hp hq, ntt_ringZipWith isLinearOp_modSub hp hq⟩

end Sys2Proof.Proofs

namespace Sys2Proof.Proofs

open Sys2Proof.Machine Sys2Proof.Safety Sys2Proof.Laws

/-! ### While BUSY = 1 no access shows the slot file (10_state.md R42; 93_implementation_defined.md U8) -/

/-- `s` with another slot file and tag file. -/
def withSlotFile (s : State) (p : Vector RingElem 32) (q : Vector Domain 32) : State := { s with slots := p, tags := q }

@[simp] theorem withSlotFile_build (s : State) (p : Vector RingElem 32) (q : Vector Domain 32) :
    (withSlotFile s p q).build = s.build := rfl
@[simp] theorem withSlotFile_takesEffect (s : State) (p : Vector RingElem 32) (q : Vector Domain 32)
    (off size : Nat) : (withSlotFile s p q).takesEffect off size = s.takesEffect off size := rfl

theorem readReg_withSlotFile {s : State} (hb : s.busy = true) (p : Vector RingElem 32) (q : Vector Domain 32)
    (g : Reg) : (withSlotFile s p q).readReg g = s.readReg g := by
  cases g with
  | id | ctrl | status | cmd | winsel | errInfo | reserved => rfl
  | tags => rw [readReg_tags_of_busy s hb, readReg_tags_of_busy (withSlotFile s p q) hb]
  | win j => rw [readReg_win_of_busy s j hb, readReg_win_of_busy (withSlotFile s p q) j hb]

theorem onlySlotsAndTags_record (s : State) (p : Vector RingElem 32) (q : Vector Domain 32) (c : ErrCode)
    (info : Word) : OnlySlotsAndTags (s.record c info) ((withSlotFile s p q).record c info) := by
  cases he : s.err with
  | true => rw [record_of_err s c info he, record_of_err (withSlotFile s p q) c info he]; rfl
  | false => rw [record_of_no_err s c info he, record_of_no_err (withSlotFile s p q) c info he]; rfl

/-- While BUSY = 1 a register write is a reset, a change of a flag or a record, none of which reads S or T. -/
theorem onlySlotsAndTags_writeReg {s : State} (hb : s.busy = true) (p : Vector RingElem 32) (q : Vector Domain 32)
    (g : Reg) (w : Word) : OnlySlotsAndTags (s.writeReg g w) ((withSlotFile s p q).writeReg g w) := by
  cases g with
  | id | tags | errInfo | reserved => rfl
  | ctrl => simp only [State.writeReg, State.onCtrlWrite]; cases w.getLsbD 1 <;> rfl
  | status => simp only [State.writeReg, onStatusWrite_eq]; rfl
  | cmd =>
    simp only [State.writeReg]
    cases he : s.err with
    | true => rw [onCmdWrite_of_err w he, onCmdWrite_of_err (s := withSlotFile s p q) w he]; rfl
    | false =>
      rw [onCmdWrite_of_busy w he hb, onCmdWrite_of_busy (s := withSlotFile s p q) w he hb]
      exact onlySlotsAndTags_record s p q _ _
  | winsel =>
    simp only [State.writeReg]
    rw [onWinselWrite_of_busy s w hb, onWinselWrite_of_busy (withSlotFile s p q) w hb]
    exact onlySlotsAndTags_record s p q _ _
  | win j =>
    simp only [State.writeReg]
    rw [onWinWrite_of_busy s j w hb, onWinWrite_of_busy (withSlotFile s p q) j w hb]
    exact onlySlotsAndTags_record s p q _ _

/-- While BUSY = 1 a host access leads states that differ in S and T to states that differ in S and T at most. -/
theorem onlySlotsAndTags_hostAccess {s : State} (hb : s.busy = true) (p : Vector RingElem 32) (q : Vector Domain 32)
    (a : Access) : OnlySlotsAndTags (s.hostAccess a) ((withSlotFile s p q).hostAccess a) := by
  cases a with
  | read addr size =>
    simp only [State.hostAccess, withSlotFile_build, withSlotFile_takesEffect, readReg_withSlotFile hb]
    cases Build.offset s.build addr <;> rfl
  | write addr size w =>
    rcases offset_cases s.build addr with hout | ⟨off, ho, rfl⟩
    · rw [hostAccess_write_outside s size w hout, hostAccess_write_outside (withSlotFile s p q) size w hout]; rfl
    · have hwrite := hostAccess_write (withSlotFile s p q) off size w ho
      rw [withSlotFile_build, withSlotFile_takesEffect] at hwrite
      rw [hostAccess_write s off size w ho, hwrite]
      split
      · exact onlySlotsAndTags_writeReg hb p q (regAt off) w
      · rfl

/-- Settles O54: while BUSY = 1 no read answers a part of S or T, and no write reads them. -/
theorem busyHidesSlotFile : Obligations.BusyHidesSlotFile := fun s p q a hb =>
  ⟨_, _, takes_access_intro s a, takes_access_intro (withSlotFile s p q) a, onlySlotsAndTags_hostAccess hb p q a⟩

/-! ### Reads have no side effect (20_memory.md R68) -/

/-- A read answers a value that does not depend on the value answered before, and changes nothing else. -/
theorem hostAccess_read_eq (s : State) (addr size : Nat) :
    ∃ v, s.hostAccess (.read addr size) = { s with rdata := v } ∧
      State.hostAccess { s with rdata := v } (.read addr size) = { s with rdata := v } := by
  rcases offset_cases s.build addr with hout | ⟨off, ho, rfl⟩
  · exact ⟨s.rdata, hostAccess_read_outside s size hout, hostAccess_read_outside s size hout⟩
  · refine ⟨_, hostAccess_read s off size ho, ?_⟩
    rw [hostAccess_read { s with rdata := _ } off size ho]
    cases regAt off <;> rfl

/-- Settles O48: the second read finds the state that the first one found, but for the read data. -/
theorem readsHaveNoSideEffect : Obligations.ReadsHaveNoSideEffect := by
  intro s addr size
  obtain ⟨v, hfirst, hsecond⟩ := hostAccess_read_eq s addr size
  have htakes := takes_access_intro s (.read addr size)
  have hagain := takes_access_intro { s with rdata := v } (.read addr size)
  rw [hfirst] at htakes
  rw [hsecond] at hagain
  exact ⟨v, htakes, hagain⟩

/-! ### The BUSY hazard (70_reset_and_hazards.md R270) -/

/-- Settles O53: each access by the rule of its register while BUSY = 1. -/
theorem busyHazard : Obligations.BusyHazard := by
  refine ⟨fun s w => ⟨rfl, rfl⟩, fun s j v hr hb => ?_⟩
  have hread (off : Nat) (ho : off < 4096) (ha : off % 4 = 0) : HostReads s off (s.readReg (regAt off)) :=
    hostReads_intro s off ho ha hr
  have hwrite (off : Nat) (w : Word) (ho : off < 4096) (ha : off % 4 = 0) :
      HostWrites s off w (s.writeReg (regAt off) w) := hostWrites_intro s off w ho ha hr
  refine ⟨?_, ?_, ?_, ?_, ?_, hread 0x00C (by decide) rfl, hread 0x010 (by decide) rfl, hread 0x018 (by decide) rfl,
    hwrite 0x004 1 (by decide) rfl, hwrite 0x008 2 (by decide) rfl⟩
  · exact readReg_win_of_busy s j hb ▸ hostReads_win s j hr
  · exact readReg_tags_of_busy s hb ▸ hread 0x014 (by decide) rfl
  · exact ⟨_, hostWrites_win s j v hr, onWinWrite_of_busy s j v hb ▸ raisedFrom_record _ _ s⟩
  · exact ⟨s.onWinselWrite v, hwrite 0x010 v (by decide) rfl, onWinselWrite_of_busy s v hb ▸ raisedFrom_record _ _ s⟩
  · exact ⟨_, hostWrites_cmd s v hr, onCmdWrite_of_err v,
      fun he => onCmdWrite_of_busy v he hb ▸ raisedFrom_record _ _ s⟩

end Sys2Proof.Proofs

namespace Sys2Proof.Proofs

open Sys2Proof.Machine Sys2Proof.Safety Sys2Proof.Laws

/-! ### What the engine's turn leaves as it was (10_state.md R40) -/

/-- The fields that no command changes: the build, the RST level, the port's read data, the count of resets and the
waiting events. -/
def SameSurroundings (s t : State) : Prop :=
  t.build = s.build ∧ t.rst = s.rst ∧ t.rdata = s.rdata ∧ t.resets = s.resets ∧ t.events = s.events

theorem sameSurroundings_record (s : State) (c : ErrCode) (info : Word) : SameSurroundings s (s.record c info) :=
  ⟨record_build s c info, record_rst s c info, record_rdata s c info, record_resets s c info, record_events s c info⟩

theorem sameSurroundings_exec {i : Instr} {s t : State} (h : exec i s = .next t) : SameSurroundings s t := by
  obtain ⟨f, hf, honly⟩ := exec_is_framed_runChecked i s
  rw [hf] at h
  rcases runChecked_cases i s f with ⟨-, hc⟩ | ⟨-, -, hc⟩ | ⟨-, -, hc⟩ <;>
    obtain rfl := Host.Outcome.next.inj (hc.symm.trans h)
  · exact sameSurroundings_record s _ _
  · exact sameSurroundings_record s _ _
  · rw [honly]; exact ⟨rfl, rfl, rfl, rfl, rfl⟩

theorem sameSurroundings_engineStep {s t : State} (h : s.engineStep = .next t) : SameSurroundings s t := by
  rcases engineStep_cases s with ⟨hs, -⟩ | ⟨hs, -⟩ | ⟨i, u, -, hexec, hs, -⟩ | ⟨hs, -⟩
  · obtain rfl := Host.Outcome.next.inj (hs.symm.trans h)
    exact ⟨rfl, rfl, rfl, rfl, rfl⟩
  · obtain rfl := Host.Outcome.next.inj (hs.symm.trans h)
    exact ⟨rfl, rfl, rfl, rfl, rfl⟩
  · obtain rfl := Host.Outcome.next.inj (hs.symm.trans h)
    exact sameSurroundings_exec (t := u) hexec
  · exact nomatch hs.symm.trans h

/-! ### K and BASE are fixed (00_scope.md R9; 20_memory.md R62) -/

/-- Everything a register write can do. -/
inductive RegisterWrite (s : State) : State → Prop
  | ignored : RegisterWrite s s
  | recorded (c : ErrCode) (info : Word) (hc : c ≠ .none) : RegisterWrite s (s.record c info)
  | reset : RegisterWrite s s.resetEvent
  | irqEnabled (b : Bool) : RegisterWrite s { s with irqEn := b }
  | cleared (w : Word) : RegisterWrite s (s.onStatusWrite w)
  | accepted (w : Word) (i : Instr) (hb : s.busy = false) (hw : decode w = .command i)
      (hr : rangeOk s.k i = true) (hd : domainOk s i = true) : RegisterWrite s (s.accept w)
  | selected (e : Slot) : RegisterWrite s { s with winsel := e }
  | stored (j : Fin 256) (c : Coeff) (hc : c.toNat < 3329) :
      RegisterWrite s (s.setSlot s.winsel ((s.slot s.winsel).set j c))

/-- A CMD write with no error to record is of a command that passes its checks, while BUSY = 0. -/
theorem checked_of_gateError_eq_none {s : State} {w : Word} (h : gateError s w = none) :
    s.busy = false ∧ ∃ i, decode w = .command i ∧ rangeOk s.k i = true ∧ domainOk s i = true := by
  unfold gateError at h
  split at h
  next => exact nomatch h
  next hb =>
    split at h
    next => exact nomatch h
    next => exact nomatch h
    next i hw =>
      split at h
      next => exact nomatch h
      next hr =>
        split at h
        next => exact nomatch h
        next hd => exact ⟨by simpa using hb, i, hw, by simpa using hr, by simpa using hd⟩

theorem ne_none_of_gateError {s : State} {w : Word} {c : ErrCode} (h : gateError s w = some c) : c ≠ .none := by
  rintro rfl
  exact absurd (gateError_mem h) (by decide)

theorem registerWrite_onCmdWrite (s : State) (w : Word) : RegisterWrite s (s.onCmdWrite w) := by
  cases he : s.err with
  | true => rw [onCmdWrite_of_err w he]; exact .ignored
  | false =>
    rw [onCmdWrite_of_no_err w he]
    cases hg : gateError s w with
    | none =>
      obtain ⟨hb, i, hw, hr, hd⟩ := checked_of_gateError_eq_none hg
      exact .accepted w i hb hw hr hd
    | some c => exact .recorded c w (ne_none_of_gateError hg)

theorem registerWrite_onWinWrite (s : State) (j : Fin 256) (w : Word) : RegisterWrite s (s.onWinWrite j w) := by
  cases hb : s.busy with
  | true => rw [onWinWrite_of_busy s j w hb]; exact .recorded _ _ (by decide)
  | false =>
    rcases Nat.lt_or_ge w.toNat 3329 with hq | hq
    · rw [onWinWrite_of_canonical s j w hb hq]
      exact .stored j _ ((toNat_coeff_of_canonical w hq).trans_lt hq)
    · rw [onWinWrite_of_range s j w hb hq]; exact .recorded _ _ (by decide)

theorem registerWrite_writeReg (s : State) (g : Reg) (w : Word) : RegisterWrite s (s.writeReg g w) := by
  cases g with
  | id | tags | errInfo | reserved => exact .ignored
  | ctrl =>
    simp only [State.writeReg]
    cases hv : w.getLsbD 1 with
    | true => rw [onCtrlWrite_of_srst s w hv]; exact .reset
    | false => rw [onCtrlWrite_of_no_srst s w hv]; exact .irqEnabled _
  | status => exact .cleared w
  | cmd => exact registerWrite_onCmdWrite s w
  | winsel =>
    simp only [State.writeReg]
    cases hb : s.busy with
    | true => rw [onWinselWrite_of_busy s w hb]; exact .recorded _ _ (by decide)
    | false => rw [onWinselWrite_of_not_busy s w hb]; exact .selected _
  | win j => exact registerWrite_onWinWrite s j w

theorem build_of_registerWrite {s t : State} (h : RegisterWrite s t) : t.build = s.build := by
  cases h with
  | recorded c info => exact record_build s c info
  | cleared w => rw [onStatusWrite_eq]
  | ignored | reset | irqEnabled | accepted | selected | stored => rfl

theorem build_rstInput (s : State) (b : Bool) : (s.rstInput b).build = s.build := by
  by_cases hb : b = s.rst
  · rw [rstInput_of_eq hb]
  · rw [rstInput_of_ne hb]; rfl

/-- Settles O58: by what a step can do. -/
theorem buildNeverChanges : Obligations.BuildNeverChanges := by
  intro s t h
  rcases step_cases h with ⟨rest, hengine⟩ | ⟨a, rest, -, rfl⟩ | ⟨b, rest, -, rfl⟩
  · obtain ⟨hbuild, -⟩ := sameSurroundings_engineStep hengine
    exact hbuild
  · rcases hostAccess_cases (withEvents s rest) a with ⟨d, ha⟩ | ⟨off, w, -, -, ha⟩ <;> rw [ha]
    · rfl
    · exact build_of_registerWrite (s := withEvents s rest) (registerWrite_writeReg _ (regAt off) w)
  · exact build_rstInput (withEvents s rest) b

/-! ### The soft reset (70_reset_and_hazards.md R261; 95_test_vectors.md P4) -/

/-- With RST released, a pending word that was checked lets the engine's turn go on. -/
theorem engineStep_next {s : State} (h : PendingChecked s) : ∃ t, s.engineStep = .next t := by
  rcases engineStep_cases s with ⟨hs, -⟩ | ⟨hs, -⟩ | ⟨i, u, -, -, hs, -⟩ | ⟨-, -, hv, hw⟩
  · exact ⟨_, hs⟩
  · exact ⟨_, hs⟩
  · exact ⟨_, hs⟩
  · obtain ⟨-, i, hi, -⟩ := h hv
    exact absurd hi (hw i)

/-- Settles O57: the invariant's pending command decodes, and accesses and levels of RST always answer a state. -/
theorem stepNeverStops : Obligations.StepNeverStops := by
  intro s h
  cases hev : s.events with
  | nil => rw [step_nil s hev]; exact engineStep_next h.pendingChecked
  | cons e rest =>
    have hs : s = { s with events := e :: rest } := by rw [← hev]
    rw [hs]
    cases e with
    | engine => rw [step_engine]; exact engineStep_next (pendingChecked_withEvents rest h.pendingChecked)
    | access a => exact ⟨_, step_access _ a rest⟩
    | rst b => exact ⟨_, step_rst _ b rest⟩

/-- The state after a reset event and its zeroization depends on the surroundings alone (10_state.md R40, R42). -/
theorem zeroized_resetEvent_congr {s t : State} (h : SameSurroundings s t) :
    zeroized t.resetEvent = zeroized s.resetEvent := by
  obtain ⟨hbuild, hrst, hrdata, hresets, hevents⟩ := h
  simp only [zeroized, State.resetEvent, hbuild, hrst, hrdata, hresets, hevents]

/-- With RST released, CTRL <- 2 is the reset event. -/
theorem hostWrites_softReset {s : State} (hr : s.rst = false) : HostWrites s 0x004 2 s.resetEvent :=
  onCtrlWrite_of_srst s 2 (by decide) ▸ hostWrites_intro s 0x004 2 (by decide) rfl hr

/-- Settles O59: the engine's turn changes no field that outlasts the reset event and its zeroization. -/
theorem softResetErasesPending : Obligations.SoftResetErasesPending := by
  intro s hinv hr
  obtain ⟨t, ht⟩ := engineStep_next hinv.pendingChecked
  have hsame := sameSurroundings_engineStep ht
  have ⟨_, hrst, _⟩ := hsame
  have hrt : t.rst = false := hrst.trans hr
  exact ⟨t, _, _, _, takes_engine_intro s t ht, hostWrites_softReset hrt,
    zeroized_resetEvent_congr hsame ▸ takes_engine_resetEvent t hrt, hostWrites_softReset hr,
    takes_engine_resetEvent s hr⟩

end Sys2Proof.Proofs

namespace Sys2Proof.Proofs

open Sys2Proof.Machine Sys2Proof.Safety Sys2Proof.Laws

/-! ### Every operation keeps coefficients canonical (10_state.md R41) -/

theorem canonicalElem_ringZero : CanonicalElem ringZero :=
  canonicalElem_of_coeffAt fun _ hj => (coeffAt_ringZero hj).trans_lt (by decide)

theorem canonicalElem_polySub {p q : RingElem} (hp : CanonicalElem p) (hq : CanonicalElem q) :
    CanonicalElem (polySub p q) := canonicalElem_ringZipWith isLinearOp_modSub hp hq

theorem canonicalElem_ntt {p : RingElem} (hp : CanonicalElem p) : CanonicalElem (ntt p) := (nttMatchesLoop p).2 hp

/-- The scaling ends in a product, which is canonical whatever the input. -/
theorem canonicalElem_intt (p : RingElem) : CanonicalElem (intt p) := by
  rw [canonicalElem_iff_toList, toList_intt, inttList_eq_run]
  exact List.forall_mem_map.mpr fun x _ => modMul_lt x inv128

theorem canonicalElem_set {p : RingElem} (hp : CanonicalElem p) (j : Fin 256) {c : Coeff} (hc : c.toNat < 3329) :
    CanonicalElem (p.set j c) := fun i => by
  rw [Fin.getElem_fin, Vector.getElem_set]
  split
  · exact hc
  · exact hp i

theorem canonical_of_slots_eq {s t : State} (hs : Canonical s) (h : t.slots = s.slots) : Canonical t := fun e => by
  rw [State.slot, h]
  exact hs e

theorem canonical_setSlot {s : State} (hs : Canonical s) (d : Slot) {p : RingElem} (hp : CanonicalElem p) :
    Canonical (s.setSlot d p) := fun e => by
  by_cases he : e = d
  · subst he; rwa [slot_setSlot_self]
  · rw [slot_setSlot_ne s d e p he]; exact hs e

theorem canonical_writeSlot {s : State} (hs : Canonical s) (d : Slot) {p : RingElem} (hp : CanonicalElem p)
    (t : Domain) : Canonical (s.writeSlot d p t) := canonical_of_slots_eq (canonical_setSlot hs d hp) rfl

theorem canonical_writeVector {s : State} (hs : Canonical s) (d : Slot) {v : Nat → RingElem}
    (hv : ∀ i, CanonicalElem (v i)) (t : Nat → Domain) (n : Nat) : Canonical (s.writeVector d n v t) := by
  induction n with
  | zero => exact hs
  | succ n ih => rw [writeVector_succ]; exact canonical_writeSlot ih _ (hv n) (t n)

theorem canonical_of_zeros {s : State} (h : s.slots = Vector.replicate 32 ringZero) : Canonical s := fun e => by
  rw [State.slot, h, Fin.getElem_fin, Vector.getElem_replicate]
  exact canonicalElem_ringZero

/-- The free values after a reset event are canonical (10_state.md R41, R42). -/
theorem canonical_resetEvent (s : State) : Canonical s.resetEvent := fun e j => by
  simp only [State.slot, resetEvent_slots, unspecifiedSlots, Fin.getElem_fin, Vector.getElem_ofFn]
  exact (toNat_coeffOfNat_mod _).trans_lt (Nat.mod_lt _ (by decide))

/-- Every meaning is a command rule whose effect keeps coefficients canonical. -/
theorem exec_is_canonical_runChecked (i : Instr) {s : State} (hs : Canonical s) :
    ∃ f, exec i s = runChecked i s f ∧ Canonical (f s) := by
  cases i <;>
    simp only [exec, execNop, execPadd, execPsub, execPntt, execPintt, execPmul, execPmac, execPcopy, execPzero,
      execSettag, execClrall, execVadd, execVsub, execVntt, execVintt, execVpmul, execVdot] <;>
    refine ⟨_, rfl, ?_⟩
  case nop => exact hs
  case padd d a b => exact canonical_writeSlot hs d (canonicalElem_polyAdd (hs a) (hs b)) _
  case psub d a b => exact canonical_writeSlot hs d (canonicalElem_polySub (hs a) (hs b)) _
  case pntt d a => exact canonical_writeSlot hs d (canonicalElem_ntt (hs a)) _
  case pintt d a => exact canonical_writeSlot hs d (canonicalElem_intt _) _
  case pmul d a b => exact canonical_writeSlot hs d (canonicalElem_baseMul _ _) _
  case pmac d a b => exact canonical_writeSlot hs d (canonicalElem_polyAdd (hs d) (canonicalElem_baseMul _ _)) _
  case pcopy d a => exact canonical_writeSlot hs d (hs a) _
  case pzero d t => exact canonical_writeSlot hs d canonicalElem_ringZero t
  case settag d t => exact canonical_of_slots_eq hs (setTag_slots s d t)
  case clrall => exact canonical_of_zeros (zeroSlotFile_slots s)
  case vadd d a b => exact canonical_writeVector hs d (fun _ => canonicalElem_polyAdd (hs _) (hs _)) _ _
  case vsub d a b => exact canonical_writeVector hs d (fun _ => canonicalElem_polySub (hs _) (hs _)) _ _
  case vntt d a => exact canonical_writeVector hs d (fun _ => canonicalElem_ntt (hs _)) _ _
  case vintt d a => exact canonical_writeVector hs d (fun _ => canonicalElem_intt _) _ _
  case vpmul d a b => exact canonical_writeVector hs d (fun _ => canonicalElem_baseMul _ _) _ _
  case vdot d a b => exact canonical_writeSlot hs d (canonicalElem_dotSum s a b s.k) _

theorem canonical_exec {i : Instr} {s t : State} (h : exec i s = .next t) (hs : Canonical s) : Canonical t := by
  obtain ⟨f, hf, hcanonical⟩ := exec_is_canonical_runChecked i hs
  rw [hf] at h
  rcases runChecked_cases i s f with ⟨-, hc⟩ | ⟨-, -, hc⟩ | ⟨-, -, hc⟩ <;>
    obtain rfl := Host.Outcome.next.inj (hc.symm.trans h)
  · exact canonical_of_slots_eq hs (record_slots s _ _)
  · exact canonical_of_slots_eq hs (record_slots s _ _)
  · exact hcanonical

/-! ### The invariant of a run -/

/-- `t` has the pending command, the last command, the build and the tags of `s`. -/
structure SamePending (s t : State) : Prop where
  build : t.build = s.build
  tags : t.tags = s.tags
  lastCmd : t.lastCmd = s.lastCmd
  pend : t.pend = s.pend
  clr : t.clr = s.clr

theorem SamePending.pendingChecked {s t : State} (h : SamePending s t) (hs : PendingChecked s) : PendingChecked t := by
  intro hv
  rw [h.pend] at hv
  obtain ⟨hlast, i, hw, hr, hd⟩ := hs hv
  have hk : t.k = s.k := by rw [State.k, h.build, State.k]
  rw [h.pend, h.lastCmd, hk]
  exact ⟨hlast, i, hw, hr, (domainOk_congr h.build h.tags i).trans hd⟩

theorem SamePending.busy {s t : State} (h : SamePending s t) : t.busy = s.busy := by
  rw [State.busy, h.pend, h.clr, State.busy]

/-- A change that leaves the pending command as it was keeps the invariant, where it keeps the rest of it. -/
theorem inv_of_samePending {s t : State} (hs : Inv s) (h : SamePending s t) (hcanonical : Canonical t)
    (herror : ErrorRecordCoherent t) (hdone : s.done = false → t.done = false) (hheld : HeldInReset t) : Inv t where
  canonical := hcanonical
  pendingChecked := h.pendingChecked hs.pendingChecked
  onePending := by rw [OnePending, h.pend, h.clr]; exact hs.onePending
  errorRecord := herror
  doneClear hb := hdone (hs.doneClear (h.busy ▸ hb))
  heldInReset := hheld

/-- With RST released nothing is held in reset. -/
theorem heldInReset_of_released {s : State} (hr : s.rst = false) : HeldInReset s := fun h =>
  absurd (hr.symm.trans h) (by decide)

/-- A reset event gives a state of the invariant, at either level of RST, whatever came before. -/
theorem inv_resetAt (s : State) (b : Bool) : Inv (resetAt s b) where
  canonical := canonical_resetEvent { s with rst := b }
  pendingChecked h := nomatch h
  onePending h := nomatch h.1
  errorRecord := ⟨fun _ => ⟨rfl, rfl⟩, fun h => nomatch h⟩
  doneClear _ := rfl
  heldInReset _ := ⟨rfl, rfl, rfl, rfl, rfl⟩

theorem inv_withEvents {s : State} (h : Inv s) (r : List Event) : Inv (withEvents s r) :=
  inv_of_samePending h ⟨rfl, rfl, rfl, rfl, rfl⟩ h.canonical h.errorRecord id h.heldInReset

theorem inv_rdata {s : State} (h : Inv s) (v : Word) : Inv { s with rdata := v } :=
  inv_of_samePending h ⟨rfl, rfl, rfl, rfl, rfl⟩ h.canonical h.errorRecord id h.heldInReset

/-- A recorded error has a code (60_exceptions.md R221, R223). -/
theorem errorRecordCoherent_record {s : State} (h : ErrorRecordCoherent s) {c : ErrCode} (hc : c ≠ .none)
    (info : Word) : ErrorRecordCoherent (s.record c info) := by
  cases he : s.err with
  | true => rwa [record_of_err s c info he]
  | false => rw [record_of_no_err s c info he]; exact ⟨fun hn => Bool.noConfusion hn, fun _ => hc⟩

theorem inv_record {s : State} (h : Inv s) (hr : s.rst = false) {c : ErrCode} (hc : c ≠ .none) (info : Word) :
    Inv (s.record c info) := by
  have hsame : SamePending s (s.record c info) :=
    ⟨record_build s c info, record_tags s c info, record_lastCmd s c info, record_pend s c info, record_clr s c info⟩
  refine inv_of_samePending h hsame (canonical_of_slots_eq h.canonical (record_slots s c info))
    (errorRecordCoherent_record h.errorRecord hc info) (fun hd => ?_)
    (heldInReset_of_released ((record_rst s c info).trans hr))
  rwa [record_done]

theorem inv_onStatusWrite {s : State} (h : Inv s) (hr : s.rst = false) (w : Word) : Inv (s.onStatusWrite w) := by
  rw [onStatusWrite_eq s w]
  refine inv_of_samePending h ⟨rfl, rfl, rfl, rfl, rfl⟩ h.canonical ?_ (fun hd => ?_) (heldInReset_of_released hr)
  · cases hw : w.getLsbD 2 with
    | true => exact ⟨fun _ => ⟨rfl, rfl⟩, fun he => nomatch he⟩
    | false => exact h.errorRecord
  · exact ite_eq_left_iff.mpr fun _ => hd

theorem inv_accept {s : State} (h : Inv s) (hr : s.rst = false) {w : Word} {i : Instr} (hb : s.busy = false)
    (hw : decode w = .command i) (hrange : rangeOk s.k i = true) (hdomain : domainOk s i = true) :
    Inv (s.accept w) where
  canonical := h.canonical
  pendingChecked _ := ⟨rfl, i, hw, hrange, (domainOk_congr rfl rfl i).trans hdomain⟩
  onePending := by
    obtain ⟨-, hclr⟩ := Bool.or_eq_false_iff.mp hb
    rintro ⟨-, hc⟩
    exact absurd (hclr.symm.trans hc) (by decide)
  errorRecord := h.errorRecord
  doneClear _ := rfl
  heldInReset := heldInReset_of_released hr

/-- With RST released, every register write keeps the invariant. -/
theorem inv_of_registerWrite {s t : State} (h : Inv s) (hr : s.rst = false) (hw : RegisterWrite s t) : Inv t := by
  cases hw with
  | ignored => exact h
  | recorded c info hc => exact inv_record h hr hc info
  | reset =>
    have hreset : s.resetEvent = resetAt s false := by rw [resetAt, ← hr]
    exact hreset ▸ inv_resetAt s false
  | irqEnabled b =>
    exact inv_of_samePending h ⟨rfl, rfl, rfl, rfl, rfl⟩ h.canonical h.errorRecord id (heldInReset_of_released hr)
  | cleared w => exact inv_onStatusWrite h hr w
  | accepted w i hb hdec hrange hdomain => exact inv_accept h hr hb hdec hrange hdomain
  | selected e =>
    exact inv_of_samePending h ⟨rfl, rfl, rfl, rfl, rfl⟩ h.canonical h.errorRecord id (heldInReset_of_released hr)
  | stored j c hc =>
    exact inv_of_samePending h ⟨rfl, rfl, rfl, rfl, rfl⟩
      (canonical_setSlot h.canonical _ (canonicalElem_set (h.canonical _) j hc)) h.errorRecord id
      (heldInReset_of_released hr)

/-- While RST is asserted, an access changes at most the read data (70_reset_and_hazards.md R260). -/
theorem hostAccess_of_rst {s : State} (hr : s.rst = true) (a : Access) :
    ∃ d, s.hostAccess a = { s with rdata := d } := by
  cases a with
  | read addr size =>
    rcases offset_cases s.build addr with hout | ⟨off, ho, rfl⟩
    · exact ⟨s.rdata, hostAccess_read_outside s size hout⟩
    · exact ⟨_, hostAccess_read s off size ho⟩
  | write addr size w =>
    rcases offset_cases s.build addr with hout | ⟨off, ho, rfl⟩
    · exact ⟨s.rdata, hostAccess_write_outside s size w hout⟩
    · refine ⟨s.rdata, ?_⟩
      rw [hostAccess_write s off size w ho, takesEffect_of_rst hr off size]
      rfl

theorem inv_hostAccess {s : State} (h : Inv s) (a : Access) : Inv (s.hostAccess a) := by
  cases hr : s.rst with
  | true =>
    obtain ⟨d, ha⟩ := hostAccess_of_rst hr a
    exact ha ▸ inv_rdata h d
  | false =>
    rcases hostAccess_cases s a with ⟨d, ha⟩ | ⟨off, w, -, -, ha⟩ <;> rw [ha]
    · exact inv_rdata h d
    · exact inv_of_registerWrite h hr (registerWrite_writeReg s (regAt off) w)

theorem inv_rstInput {s : State} (h : Inv s) (b : Bool) : Inv (s.rstInput b) := by
  by_cases hb : b = s.rst
  · rwa [rstInput_of_eq hb]
  · rw [rstInput_of_ne hb]; exact inv_resetAt s b

theorem inv_zeroize {s : State} (h : Inv s) (hr : s.rst = false) (hv : s.pend.valid = false) : Inv s.zeroize where
  canonical := canonical_of_zeros rfl
  pendingChecked hp := absurd (hv.symm.trans hp) (by decide)
  onePending := fun ⟨_, hc⟩ => nomatch hc
  errorRecord := h.errorRecord
  doneClear hb := absurd hb (by simp [State.busy, hv])
  heldInReset := heldInReset_of_released hr

/-- A command whose checks pass changes S and T alone. -/
theorem onlySlotsAndTags_of_exec {i : Instr} {s t : State} (h : exec i s = .next t) (hr : rangeOk s.k i = true)
    (hd : domainOk s i = true) : OnlySlotsAndTags s t := by
  obtain ⟨f, hf, honly⟩ := exec_is_framed_runChecked i s
  obtain rfl := Host.Outcome.next.inj ((hf.trans (runChecked_ok i s f hr hd)).symm.trans h)
  exact honly

/-- The completion of a command that changed S and T alone keeps the invariant. -/
theorem inv_complete {s t : State} (h : Inv s) (hr : s.rst = false) (hv : s.pend.valid = true)
    (honly : OnlySlotsAndTags s t) (hcanonical : Canonical t) : Inv t.complete where
  canonical := canonical_of_slots_eq hcanonical (complete_slots t)
  pendingChecked hp := nomatch hp
  onePending := fun ⟨hp, _⟩ => nomatch hp
  errorRecord := by rw [honly]; exact h.errorRecord
  doneClear hb := by
    rw [honly] at hb
    exact absurd ⟨hv, hb⟩ h.onePending
  heldInReset := by rw [honly]; exact heldInReset_of_released hr

theorem inv_engineStep {s t : State} (h : Inv s) (ht : s.engineStep = .next t) : Inv t := by
  rcases engineStep_cases s with ⟨hs, -⟩ | ⟨hs, hr, hv, -⟩ | ⟨i, u, hw, hexec, hs, hr, hv⟩ | ⟨hs, -⟩
  · obtain rfl := Host.Outcome.next.inj (hs.symm.trans ht)
    exact h
  · obtain rfl := Host.Outcome.next.inj (hs.symm.trans ht)
    exact inv_zeroize h hr hv
  · obtain rfl := Host.Outcome.next.inj (hs.symm.trans ht)
    obtain ⟨-, i', hw', hrange, hdomain⟩ := h.pendingChecked hv
    obtain rfl := Decoded.command.inj (hw'.symm.trans hw)
    exact inv_complete (t := u) h hr hv (onlySlotsAndTags_of_exec hexec hrange hdomain)
      (canonical_exec hexec h.canonical)
  · exact nomatch hs.symm.trans ht

/-- Settles O56: by what a step can do. -/
theorem invKeptByStep : Obligations.InvKeptByStep := by
  intro s t h hstep
  rcases step_cases hstep with ⟨rest, hengine⟩ | ⟨a, rest, -, rfl⟩ | ⟨b, rest, -, rfl⟩
  · exact inv_engineStep (inv_withEvents h rest) hengine
  · exact inv_hostAccess (inv_withEvents h rest) a
  · exact inv_rstInput (inv_withEvents h rest) b

/-- Settles O55: the state is held as after a reset event, and the model's zeros are canonical. -/
theorem invAtReset : Obligations.InvAtReset where
  canonical := canonical_of_zeros rfl
  pendingChecked h := nomatch h
  onePending h := nomatch h.1
  errorRecord := ⟨fun _ => ⟨rfl, rfl⟩, fun h => nomatch h⟩
  doneClear _ := rfl
  heldInReset h := nomatch h

end Sys2Proof.Proofs

namespace Sys2Proof.Proofs

open Sys2Proof.Machine Sys2Proof.Safety Sys2Proof.Laws

/-! ### Words of the test vectors (95_test_vectors.md) -/

/-- Settles O5: by decoding each word. -/
theorem sampleWordsDecode : Obligations.SampleWordsDecode := by
  unfold Obligations.SampleWordsDecode
  decide +kernel

/-! ### The step (10_state.md R40; 20_memory.md R62, R65, R71) -/

/-- An engine event and the idle schedule are the engine's turn. -/
theorem step_of_engine_turn {s : State} {rest : List Event}
    (h : s.events = .engine :: rest ∨ s.events = [] ∧ rest = []) : step s = (withEvents s rest).engineStep := by
  rcases h with hev | ⟨hev, rfl⟩
  · rw [step, hev]; rfl
  · rw [step_nil s hev, withEvents, ← hev]

/-- With a zeroization alone pending, the engine's turn performs it. -/
theorem engineStep_of_clr {s : State} (hr : s.rst = false) (hv : s.pend.valid = false) (hc : s.clr = true) :
    s.engineStep = .next (zeroized s) := by
  rw [State.engineStep, hr, hv, hc]; rfl

/-- With nothing pending, the engine's turn does nothing. -/
theorem engineStep_of_idle {s : State} (hr : s.rst = false) (hv : s.pend.valid = false) (hc : s.clr = false) :
    s.engineStep = .next s := by
  rw [State.engineStep, hr, hv, hc]; rfl

/-- Settles O36: the engine's turn by what is pending. -/
theorem stepRunsPendingCommand : Obligations.StepRunsPendingCommand := by
  rintro s _ rest hturn rfl hr
  rw [step_of_engine_turn hturn]
  refine ⟨fun i t hv hw hexec => ?_, engineStep_of_clr (s := withEvents s rest) hr,
    engineStep_of_idle (s := withEvents s rest) hr⟩
  have hpend : s.pend = { valid := true, word := s.pend.word } := by rw [← hv]
  exact engineStep_of_pending hw hr hpend hexec

theorem step_of_access {s : State} {a : Access} {rest : List Event} (h : s.events = .access a :: rest) :
    step s = .next ((withEvents s rest).hostAccess a) := by
  rw [step, h]
  rfl

theorem offset_eq_none {b : Build} {addr : Nat} (h : addr < b.base ∨ b.base + 4096 ≤ addr) :
    Build.offset b addr = none := if_neg (by omega)

/-- Settles O37: the access is the whole step, and an access outside the window finds no offset. -/
theorem stepTakesEventsInOrder : Obligations.StepTakesEventsInOrder := by
  refine fun s rest a => ⟨fun hev => ⟨_, step_of_access hev, ?_, rfl⟩, fun addr size v hout ha hev => ?_⟩
  · rw [hostAccess_withEvents]; rfl
  · have hnone : Build.offset (withEvents s rest).build addr = none := offset_eq_none hout
    rw [step_of_access hev]
    rcases ha with rfl | rfl
    · rw [hostAccess_read_outside _ size hnone]; rfl
    · rw [hostAccess_write_outside _ size v hnone]; rfl

end Sys2Proof.Proofs
